-- ==== Sys2Proof/Word.lean ====
section
/-! DEFINITION. The widths of the machine's values (spec 00_scope.md R5, 10_state.md R24). Each name below is the
spec's own width; every value is one number, never a sequence of bytes (20_memory.md R31). -/

namespace Sys2Proof

/-- A channel index, 2 bits, every value valid (R24, R37). -/
abbrev Channel := Fin 4

/-- A pin index, 2 bits, every value valid: P0..P3 (R24, R37). -/
abbrev Pin := Fin 4

/-- A duty value, `DUTY_W` = 16 bits, unsigned (R5, R10). -/
abbrev Duty := BitVec 16

/-- A command symbol, `SYM_W` = 8 bits (R5, R46). -/
abbrev Symbol := BitVec 8

/-- A word with one bit per pin, bit k for Pk: steering words, clear words, the stale flags (R50, R51, R20). -/
abbrev PinWord := BitVec 4

/-- The phase code, 3 bits (R14, R49). -/
abbrev PhaseCode := BitVec 3

/-- The sequencer's selector, 4 bits (R48). -/
abbrev Selector := BitVec 4

/-- The tick counter, `TICK_W` = 4 bits (R5, R13). -/
abbrev TickCount := BitVec 4

end Sys2Proof
end

