-- ==== Sys2Proof/Config.lean ====
section
/-! DEFINITION. What is fixed for the machine, and the values the spec leaves open (spec 00_scope.md R5, R6;
92_eei_decisions.md "Open parameters, collected"). An open value is a constant without a body: no proof can see it.
Where the spec limits an open value (R6), the constants below are computed from free ones so that the limit holds and
nothing else does: every choice that R6 allows is the image of some choice of the free constants. -/

namespace Sys2Proof.Config

/-- `STEP`: the adjustment of the commands `a` and `d` (R5). -/
def adjustStep : Int := 10

/-- `T_RESYNC`: the value `tick` takes at round wrap (R5, R67). -/
def tResync : TickCount := 0

/-- The smaller of two duty values. -/
def lesser (a b : Duty) : Duty := if a ≤ b then a else b

/-- The larger of two duty values. -/
def greater (a b : Duty) : Duty := if a ≤ b then b else a

/-- Three free duty values per channel, from which the open bounds and initial values are taken (R5, D11). Log entry 1. -/
opaque openDuty : Channel → Fin 3 → Duty

/-- A free duty value from which the open `P_COUNTS` is taken (R5, D10). Log entry 1. -/
opaque openPeriod : Duty

/-- `MIN_DUTY[c]`: 142 for channel 0, open otherwise (R5, R11): the least of the channel's three free values. -/
def minDuty (c : Channel) : Duty :=
  if c = 0 then 142 else lesser (openDuty c 0) (lesser (openDuty c 1) (openDuty c 2))

/-- `MAX_DUTY[c]`: 592 for channel 0, open otherwise (R5, R11): the greatest of the channel's three free values. -/
def maxDuty (c : Channel) : Duty :=
  if c = 0 then 592 else greater (openDuty c 0) (greater (openDuty c 1) (openDuty c 2))

/-- `INIT_DUTY[c]`: 312 for channel 0, open otherwise (R5, R10): the middle one of the channel's three free values. -/
def initDuty (c : Channel) : Duty :=
  if c = 0 then 312
  else greater (lesser (openDuty c 0) (openDuty c 1))
    (lesser (greater (openDuty c 0) (openDuty c 1)) (openDuty c 2))

/-- `P_COUNTS`: open, at least every `MAX_DUTY[c]` (R5, R6). -/
def periodCounts : Duty :=
  greater openPeriod (greater (maxDuty 0) (greater (maxDuty 1) (greater (maxDuty 2) (maxDuty 3))))

/-- The unspecified reset value of `duty_shadow`: one draw (R18, U8). Log entry 2. -/
opaque dutyShadowReset : Duty

/-- The unspecified reset value of `duty_act`: one draw (R18, U8). Log entry 2. -/
opaque dutyActReset : Duty

/-- The level a stale, unsteered pin shows at the n-th observation: a fresh draw each time, under no law (R115, U9).
Log entry 8. -/
opaque staleLevel : Nat → Pin → Bool

/-- `ADJ_TEXT`: the text of the status line after a successful `a` or `d`, open (R91, D16). -/
opaque adjText : Channel → Duty → List (BitVec 8)

/-- The result of `clamp lo hi v` with lo above hi, which the spec does not define (R80, U7). Log entry 9. -/
opaque crossedClamp : Int → Int → Int → Int

/-- A free permutation of the numbers, from which `PIN_MAP` is taken. -/
opaque pinNumbering : Equiv.Perm Nat

/-- `PIN_MAP`: the package pin of Pk, an open one-to-one map that no rule reads (R5, D6). -/
def pinMap (k : Pin) : Nat := pinNumbering k.val

end Sys2Proof.Config
end

