-- ==== Sys2Proof/Syntax.lean ====
section
/-! DEFINITION. The operations (spec opcode_table.json, 30_encoding.md R45): one constructor per row of the table.
The three rows of the reserved selectors (all named `T.RSVD` in the table) are three constructors. -/

namespace Sys2Proof

/-- The operations the block and its collaborator decode. -/
inductive Instr where
  /-- `SEL0`, symbol `1` (R93). -/
  | sel0
  /-- `SEL2`, symbol `2` (R94). -/
  | sel2
  /-- `SEL1`, symbol `3` (R95). -/
  | sel1
  /-- `SEL3`, symbol `4` (R96). -/
  | sel3
  /-- `INC`, symbol `a` (R97). -/
  | inc
  /-- `DEC`, symbol `d` (R98). -/
  | dec
  /-- `BAD(sym)`, any other symbol (R99). -/
  | bad (sym : Symbol)
  /-- `T.MID`, selector 1ppp; the phase code p is not read (R62). -/
  | tMid (p : PhaseCode)
  /-- `T.ADV0`, selector 0000 (R63). -/
  | tAdv0
  /-- `T.ADV1`, selector 0001 (R64). -/
  | tAdv1
  /-- `T.ADV2`, selector 0010 (R65). -/
  | tAdv2
  /-- `T.ADV3`, selector 0011 (R66). -/
  | tAdv3
  /-- `T.WRAP`, selector 0100 (R67). -/
  | tWrap
  /-- `T.RSVD`, selector 0101 (R68). -/
  | tRsvd5
  /-- `T.RSVD`, selector 0110 (R68). -/
  | tRsvd6
  /-- `T.RSVD`, selector 0111 (R68). -/
  | tRsvd7
  /-- `DUTY_WR(v)` (R52, R110). -/
  | dutyWr (v : Duty)
  /-- `STEER_WR(w)` (R50, R111). -/
  | steerWr (w : PinWord)
  /-- `PIN_CLR(q)` (R51, R112). -/
  | pinClr (q : PinWord)
  deriving DecidableEq, Repr

end Sys2Proof
end

