-- ==== Sys2Proof/Machine/State.lean ====
section
/-! DEFINITION. The machine's state (spec 10_state.md), plain data, and the state after `RESET`
(70_reset_and_hazards.md R150). -/

namespace Sys2Proof.Machine

/-- The messages of the feedback channel (42_commands.md R91). -/
inductive Message where
  /-- `CTRL(c)`: a select command's answer. -/
  | ctrl (c : Channel)
  /-- `NOSEL`: `a` or `d` with no channel selected. -/
  | noSel
  /-- `INVALID(sym)`: the symbol itself is carried (R92). -/
  | invalid (sym : Symbol)
  /-- `ADJ_OK(c, v)`: a successful `a` or `d`; v is `T[c]` after it. -/
  | adjOk (c : Channel) (v : Duty)
  deriving DecidableEq, Repr

/-- The conditions a step can raise (60_exceptions.md R130, numbers 1 and 2). Number 0 is no condition; number 3 is
`Fault.timingViolation`. -/
inductive Condition where
  | missingSelection
  | invalidCommand (sym : Symbol)
  deriving DecidableEq, Repr

/-- The port operations (43_pwm_collaborator.md R110 to R112). -/
inductive PortOp where
  | dutyWr (v : Duty)
  | steerWr (w : PinWord)
  | pinClr (q : PinWord)
  deriving DecidableEq, Repr

/-- What the environment can do next (00_scope.md R7; the model's own representation, log entry 3). -/
inductive Event where
  /-- The tick source delivers its interrupt (R135). -/
  | tick
  /-- The command input channel delivers a symbol (R21). -/
  | symbol (b : Symbol)
  /-- A tick and a symbol are ready at the same time (R137). -/
  | tickAndSymbol (b : Symbol)
  /-- A bare port word, as the scripts of 95_test_vectors.md section 2.6 write it; no agent of R7 does this. -/
  | port (op : PortOp)
  /-- A bare `CARRIER_START`, as the same scripts write it; in R7's environment it comes only with an odd tick (R159). -/
  | carrier
  /-- The tick source is halted (R147; out of the spec's scope, R4). -/
  | halt
  /-- A tick is dropped, doubled or late (R133; no run of the spec's model). -/
  | timingViolation
  deriving DecidableEq, Repr

/-- Why a step stops with a fault. -/
inductive Fault where
  /-- Raised by the event `timingViolation`, the optional `F_TIMING` of 60_exceptions.md R133 (D21): "no claim is made"
  after it. Safe. -/
  | timingViolation
  deriving DecidableEq, Repr

/-- Why a step has no next state. -/
inductive Refusal where
  /-- Raised by `exec` for an operation that has no meaning yet. Safe. -/
  | notModelled (mnemonic : String)
  /-- Raised by `T.RSVD` (R68, U1): an even tick with a reserved phase code. Safe: the spec gives it no semantics. -/
  | reservedPhase (code : PhaseCode)
  /-- Raised by `STEER_WR` with two or more bits set (R111, U2). Safe: the spec gives it no effect. -/
  | steerWordHasSeveralBits (w : PinWord)
  /-- Raised by `PIN_CLR` with no bit or several bits set (R56, U3). Safe: the spec gives it no effect. -/
  | clearWordNotOneBit (q : PinWord)
  /-- Raised by `PIN_CLR`, and by `T.MID` emitting one, for the steered pin (R112, U4). Safe: the spec gives it no effect. -/
  | clearOfSteeredPin (q : PinWord)
  /-- Raised by `DUTY_WR` above `P_COUNTS` (R110, U5). Safe: the spec gives it no effect. -/
  | dutyAbovePeriod (v : Duty)
  deriving DecidableEq, Repr

/-- The constants of the machine that steps read (R5, R11). No operation writes them. -/
structure Params where
  /-- `MIN_DUTY[0..3]` (R11). -/
  minDuty : Vector Duty 4
  /-- `MAX_DUTY[0..3]` (R11). -/
  maxDuty : Vector Duty 4
  /-- `P_COUNTS` (R5). -/
  periodCounts : Duty
  deriving DecidableEq, Repr

/-- Everything the machine holds. -/
structure State where
  /-- `T[0..3]`, the Duty Store (R10). -/
  targetDuty : Vector Duty 4
  /-- `MIN_DUTY`, `MAX_DUTY`, `P_COUNTS` (R11, R5). -/
  params : Params
  /-- `tick` (R13). -/
  tick : TickCount
  /-- `phase` (R14). -/
  phase : PhaseCode
  /-- `pend`: `pending_clear_pin` (R15). -/
  pend : Option Pin
  /-- `sel`: the selected channel (R17). -/
  sel : Option Channel
  /-- `duty_shadow` (R18). -/
  dutyShadow : Duty
  /-- `duty_act` (R18). -/
  dutyAct : Duty
  /-- `steer_shadow` (R19). -/
  steerShadow : PinWord
  /-- `steer_act` (R19). -/
  steerAct : PinWord
  /-- `stale[0..3]`, bit k for Pk (R20). -/
  stale : PinWord
  /-- The feedback log, oldest first (R21). -/
  feedback : List Message
  /-- The model's own: the output trace of R8, oldest first. Log entry 6. -/
  portTrace : List PortOp
  /-- The model's own: the environment's events still to come, next first; ticks go on when it is empty. Log entry 3. -/
  sched : List Event
  /-- The model's own: `CARRIER_START` has been taken, the `TICK` of the same tick is next (R159). Log entry 4. -/
  tickDue : Bool
  /-- The model's own: the tick source has been halted (R147). Log entry 7. -/
  halted : Bool
  deriving DecidableEq, Repr

/-- `RESET` (R150) of a machine with parameters p, initial target duties `init` and the two unspecified duty values d
and a. -/
def State.resetWith (p : Params) (init : Vector Duty 4) (d a : Duty) : State where
  targetDuty := init
  params := p
  tick := 0
  phase := 0
  pend := none
  sel := none
  dutyShadow := d
  dutyAct := a
  steerShadow := 0
  steerAct := 0
  stale := 0
  feedback := []
  portTrace := []
  sched := []
  tickDue := false
  halted := false

/-- The parameters of this machine (R5). -/
def Params.ofConfig : Params where
  minDuty := #v[Config.minDuty 0, Config.minDuty 1, Config.minDuty 2, Config.minDuty 3]
  maxDuty := #v[Config.maxDuty 0, Config.maxDuty 1, Config.maxDuty 2, Config.maxDuty 3]
  periodCounts := Config.periodCounts

/-- The machine right after `RESET` (R150). -/
def State.reset : State :=
  State.resetWith Params.ofConfig
    #v[Config.initDuty 0, Config.initDuty 1, Config.initDuty 2, Config.initDuty 3]
    Config.dutyShadowReset Config.dutyActReset

end Sys2Proof.Machine
end

