-- ==== Sys2Proof/Machine/Flags.lean ====
section
/-! DEFINITION. The one-bit state (spec 10_state.md R22) and the layout of the stored optionals (30_encoding.md R53). The
block has no condition codes: no operation sets a carry, zero, overflow or sticky flag. -/

namespace Sys2Proof.Machine

/-- The stored layout of an optional index: the valid bit at bit 2, the payload in bits 1:0, which is 00 for `none`
(R15, R17, R53). -/
def storedOptional : Option (Fin 4) → BitVec 3
  | none => 0b000#3
  | some k => 1#1 ++ BitVec.ofNat 2 k.val

/-- `pend.valid` (R15, R22). -/
def pendValid (s : State) : Bool := s.pend.isSome

/-- `sel.valid` (R17, R22). -/
def selValid (s : State) : Bool := s.sel.isSome

/-- `stale[k]` (R20, R22). -/
def staleFlag (k : Pin) (s : State) : Bool := s.stale.getLsbD k.val

end Sys2Proof.Machine
end

