-- ==== Sys2Proof/WellFormed.lean ====
section
/-! DEFINITION. Which terms of `Instr` some word decodes to. There is one check: `BAD` is the default row of format C,
so its symbol is none of the six that have a row of their own (spec 30_encoding.md R46, R54). Port words of every value
arrive on their ports and are terms; what the collaborator does with one it gives no effect to is said in the meanings
(R56). -/

namespace Sys2Proof

/-- The six symbols with a row of their own in format C (R46). -/
def isNamedSymbol (b : Symbol) : Bool :=
  b == 0x31#8 || b == 0x32#8 || b == 0x33#8 || b == 0x34#8 || b == 0x61#8 || b == 0x64#8

/-- The terms that some word decodes to. -/
def Instr.wf : Instr → Bool
  | .bad b => !isNamedSymbol b
  | .sel0 | .sel2 | .sel1 | .sel3 | .inc | .dec => true
  | .tMid _ | .tAdv0 | .tAdv1 | .tAdv2 | .tAdv3 | .tWrap | .tRsvd5 | .tRsvd6 | .tRsvd7 => true
  | .dutyWr _ | .steerWr _ | .pinClr _ => true

end Sys2Proof
end

