-- ==== Sys2Proof/Decode.lean ====
section
/-! DEFINITION. The encodings (spec 30_encoding.md; opcode_table.json). What a word means depends on where it arrives: a
symbol on the command channel (format C), a selector formed by the `TICK` step (format S), a word on one of the three
ports (format P: "the operation is identified by the port it is written to, not by bits of the word"). So a word to be
decoded carries its format. -/

namespace Sys2Proof

/-- Where a word arrives (R45). -/
inductive Format where
  /-- Format C: the command input channel. -/
  | symbol
  /-- Format S: the selector of a `TICK` step. -/
  | selector
  /-- Format P: the duty port. -/
  | dutyPort
  /-- Format P: the steering port. -/
  | steerPort
  /-- Format P: the pin clear port. -/
  | clearPort
  deriving DecidableEq, Repr

/-- The width of a format's words (R45). -/
def Format.width : Format → Nat
  | .symbol => 8
  | .selector => 4
  | .dutyPort => 16
  | .steerPort => 4
  | .clearPort => 4

/-- A word of one of the formats. -/
inductive RawWord where
  | symbol (b : Symbol)
  | selector (x : Selector)
  | duty (v : Duty)
  | steer (w : PinWord)
  | clear (q : PinWord)
  deriving DecidableEq, Repr

/-- Why a number is no word of a format. -/
inductive DecodeError where
  /-- Raised by `RawWord.ofNat`: the number has a bit above the format's width. Safe: nothing is decoded. -/
  | tooWide (f : Format)
  deriving DecidableEq, Repr

/-- The word of format f whose bits are the number n, refused by name where n is too wide. -/
def RawWord.ofNat (f : Format) (n : Nat) : Except DecodeError RawWord :=
  if n < 2 ^ f.width then
    match f with
    | .symbol => .ok (.symbol (BitVec.ofNat 8 n))
    | .selector => .ok (.selector (BitVec.ofNat 4 n))
    | .dutyPort => .ok (.duty (BitVec.ofNat 16 n))
    | .steerPort => .ok (.steer (BitVec.ofNat 4 n))
    | .clearPort => .ok (.clear (BitVec.ofNat 4 n))
  else .error (.tooWide f)

/-- The format a word belongs to. -/
def RawWord.format : RawWord → Format
  | .symbol _ => .symbol
  | .selector _ => .selector
  | .duty _ => .dutyPort
  | .steer _ => .steerPort
  | .clear _ => .clearPort

/-- The bits of a word as one number. -/
def RawWord.bits : RawWord → Nat
  | .symbol b => b.toNat
  | .selector x => x.toNat
  | .duty v => v.toNat
  | .steer w => w.toNat
  | .clear q => q.toNat

/-- Format C (R46): the six exact rows first, `BAD` for the rest. -/
def decodeSymbol (b : Symbol) : Instr :=
  if b = 0x31#8 then .sel0
  else if b = 0x32#8 then .sel2
  else if b = 0x33#8 then .sel1
  else if b = 0x34#8 then .sel3
  else if b = 0x61#8 then .inc
  else if b = 0x64#8 then .dec
  else .bad b

/-- Format S (R48): bit 3 set is `T.MID` whatever bits 2:0 are; otherwise bits 2:0 choose. -/
def decodeSelector (x : Selector) : Instr :=
  if x.getLsbD 3 then .tMid (x.extractLsb' 0 3)
  else if x = 0b0000#4 then .tAdv0
  else if x = 0b0001#4 then .tAdv1
  else if x = 0b0010#4 then .tAdv2
  else if x = 0b0011#4 then .tAdv3
  else if x = 0b0100#4 then .tWrap
  else if x = 0b0101#4 then .tRsvd5
  else if x = 0b0110#4 then .tRsvd6
  else .tRsvd7

/-- The operation a word stands for. Total: every word of every format belongs to a row of the table (R46, R48, R54 to
R56); the reserved selectors decode to `T.RSVD`, not to a neighbour. -/
def decode : RawWord → Instr
  | .symbol b => decodeSymbol b
  | .selector x => decodeSelector x
  | .duty v => .dutyWr v
  | .steer w => .steerWr w
  | .clear q => .pinClr q

/-- Decoding from a format and a number: refuses by name a number that is no word of the format. -/
def decodeNat (f : Format) (n : Nat) : Except DecodeError Instr :=
  match RawWord.ofNat f n with
  | .ok r => .ok (decode r)
  | .error e => .error e

/-- The word of an operation (R46, R48, R50 to R52). -/
def encode : Instr → RawWord
  | .sel0 => .symbol 0x31#8
  | .sel2 => .symbol 0x32#8
  | .sel1 => .symbol 0x33#8
  | .sel3 => .symbol 0x34#8
  | .inc => .symbol 0x61#8
  | .dec => .symbol 0x64#8
  | .bad b => .symbol b
  | .tMid p => .selector (1#1 ++ p)
  | .tAdv0 => .selector 0b0000#4
  | .tAdv1 => .selector 0b0001#4
  | .tAdv2 => .selector 0b0010#4
  | .tAdv3 => .selector 0b0011#4
  | .tWrap => .selector 0b0100#4
  | .tRsvd5 => .selector 0b0101#4
  | .tRsvd6 => .selector 0b0110#4
  | .tRsvd7 => .selector 0b0111#4
  | .dutyWr v => .duty v
  | .steerWr w => .steer w
  | .pinClr q => .clear q

/-- The format a bare table word of `nbits` bits is read in. The table's formats overlap (a word does not say where it
arrived), so this is the model's convention for the host's interface alone, and no step uses it: more than 8 bits is a
duty word; of the shorter ones a number below 16 is a selector, any other a symbol (DESIGN CHOICE, log entry 5). -/
def tableFormat (nbits w : Nat) : Format :=
  if 8 < nbits then .dutyPort else if w < 16 then .selector else .symbol

/-- The host's view of the decoder: the word w of `nbits` bits, in the format `tableFormat` reads it in. -/
def tableWord (nbits w : Nat) : Option RawWord :=
  match RawWord.ofNat (tableFormat nbits w) w with
  | .ok r => some r
  | .error _ => none

/-- The host's view of the decoder: the operation of a bare table word. -/
def decodeTableWord (nbits w : Nat) : Option Instr :=
  match tableWord nbits w with
  | some r => some (decode r)
  | none => none

end Sys2Proof
end

