-- ==== Sys2Proof/Machine/Operands.lean ====
section
/-! DEFINITION. What an operation's operands are: the incremented tick and the selector a `TICK` step forms
(30_encoding.md R48, 40_sequencer.md R60), the phase codes (R49), the pin words (R50, R51), and the texts of the
messages (42_commands.md R91). No operation has an immediate (R47). -/

namespace Sys2Proof.Machine

/-- `BLANK` = 000 (R49). -/
def phaseBlank : PhaseCode := 0b000#3

/-- `CHc`: code c + 1 (R49). -/
def phaseOf (c : Channel) : PhaseCode := BitVec.ofNat 3 (c.val + 1)

/-- `next(phase)` (R14): the phase a phase-advance event moves to. -/
def nextPhase (p : PhaseCode) : PhaseCode := if p = phaseOf 3 then phaseBlank else p + 1

/-- `onehot(k)` (R8): bit k set, the rest clear. -/
def onehot (k : Fin 4) : PinWord := 1#4 <<< k.val

/-- The words with exactly one bit set, which `PIN_CLR` carries (R51). -/
def isOneBit (q : PinWord) : Bool := q == 0b0001#4 || q == 0b0010#4 || q == 0b0100#4 || q == 0b1000#4

/-- The words `STEER_WR` carries: 0000 or exactly one bit (R50). -/
def isSteerWord (w : PinWord) : Bool := w == 0b0000#4 || isOneBit w

/-- `t1 <- tick + 1`: 5 bits, exact (R60). -/
def incrementedTick (s : State) : BitVec 5 := s.tick.zeroExtend 5 + 1

/-- `t1[3:0]`, what the sequencer operations write to `tick` (R61, R62). -/
def tickAfter (s : State) : TickCount := (incrementedTick s).extractLsb' 0 4

/-- `t1[0]`: an odd incremented tick, the mid-sub-period event (R48). -/
def oddTick (s : State) : Bool := (incrementedTick s).getLsbD 0

/-- The selector `s = (t1[0], phase[2:0])`, t1[0] at bit 3 (R48). -/
def selector (s : State) : Selector := BitVec.ofBool (oddTick s) ++ s.phase

/-- The format P word of a port operation (R50 to R52). -/
def PortOp.word : PortOp → RawWord
  | .dutyWr v => .duty v
  | .steerWr w => .steer w
  | .pinClr q => .clear q

/-- The characters of a literal text as 8-bit codes (R46: ASCII, from general knowledge; PRESUMED, log entry 10). -/
def ascii (text : String) : List (BitVec 8) := text.toList.map fun c => BitVec.ofNat 8 c.toNat

/-- The literal text of a message (R91, R92). -/
def Message.text : Message → List (BitVec 8)
  | .ctrl c => ascii "controlling channel " ++ [BitVec.ofNat 8 (0x30 + c.val)]
  | .noSel => ascii "please select a channel"
  | .invalid b => ascii "invalid command: " ++ [b]
  | .adjOk c v => Config.adjText c v

/-- The message that records a condition: the only record there is (R130). -/
def Condition.message : Condition → Message
  | .missingSelection => .noSel
  | .invalidCommand b => .invalid b

/-- The condition a message records, if any (R130). -/
def Message.condition : Message → Option Condition
  | .ctrl _ => none
  | .noSel => some .missingSelection
  | .invalid b => some (.invalidCommand b)
  | .adjOk _ _ => none

/-- The label number of a condition, "for the reader's convenience" (R130). -/
def Condition.number : Condition → Nat
  | .missingSelection => 1
  | .invalidCommand _ => 2

end Sys2Proof.Machine
end

