-- ==== Sys2Proof/Machine/Ops.lean ====
section
/-! DEFINITION. The shared operations: the Duty Store (41_duty_store.md R80 to R84), feedback and conditions
(42_commands.md R91, 60_exceptions.md R130), the port operations and `CARRIER_START` (43_pwm_collaborator.md R110 to
R113), and taking the tick interrupt (60_exceptions.md R136 to R139). -/

namespace Sys2Proof.Machine

/-- The outcomes of this machine. -/
abbrev Result := Host.Outcome State Fault Refusal

/-! ### The Duty Store -/

/-- `clamp(lo, hi, v)` on mathematical integers, bounds inclusive (R80). With lo above hi the spec defines no result:
the result is a free value (U7, log entry 9). -/
def clamp (lo hi v : Int) : Int :=
  if hi < lo then Config.crossedClamp lo hi v
  else if v < lo then lo
  else if hi < v then hi
  else v

/-- `MIN_DUTY[c]` as an integer (R11). -/
def lowerBound (c : Channel) (s : State) : Int := (s.params.minDuty[c]).toNat

/-- `MAX_DUTY[c]` as an integer (R11). -/
def upperBound (c : Channel) (s : State) : Int := (s.params.maxDuty[c]).toNat

/-- `get(c)`: one atomic read of `T[c]`, no side effect (R83). -/
def dutyGet (c : Channel) (s : State) : Duty := s.targetDuty[c]

/-- `set(c, v)`: `T[c] <- clamp(MIN_DUTY[c], MAX_DUTY[c], v)` for any integer v; silent and total (R81). -/
def dutySet (c : Channel) (v : Int) (s : State) : State :=
  { s with targetDuty := s.targetDuty.set c (BitVec.ofInt 16 (clamp (lowerBound c s) (upperBound c s) v)) }

/-- `adjust(c, d)`: clamp after add, the sum a mathematical integer (R82). -/
def dutyAdjust (c : Channel) (d : Int) (s : State) : State := dutySet c ((dutyGet c s).toNat + d) s

/-- One channel of `revalidate`: `set(c, T[c])` (R84). -/
def revalidateChannel (c : Channel) (s : State) : State := dutySet c (dutyGet c s).toNat s

/-- `revalidate`: the four channels in the order 0, 1, 2, 3 (R84). -/
def revalidate (s : State) : State :=
  revalidateChannel 3 (revalidateChannel 2 (revalidateChannel 1 (revalidateChannel 0 s)))

/-! ### Feedback and conditions -/

/-- `feedback(m)`: append one message to the log (R91). -/
def appendFeedback (m : Message) (s : State) : State := { s with feedback := s.feedback ++ [m] }

/-- Raising a condition (R130 to R132): the only thing recorded is the condition's message; nothing else changes and
control goes nowhere. There is no cause register, no saved position and no return (log entry 13). -/
def raiseCondition (c : Condition) (s : State) : State := appendFeedback c.message s

/-! ### The tick interrupt -/

/-- Taking the tick interrupt (R136, R138): the interrupt is consumed by this one step; nothing is saved, no register is
banked, there is no vector, cause, saved position or mode bit. The return restores nothing and has no instruction: the
step ends and the foreground resumes (R139), so no operation stands for it. -/
def enterInterrupt (s : State) : State := { s with tickDue := false }

/-! ### Port operations and the collaborator -/

/-- `emit`: append a port operation to the output trace (R8). -/
def recordPort (op : PortOp) (s : State) : State := { s with portTrace := s.portTrace ++ [op] }

/-- The effect of `DUTY_WR(v)`: `duty_shadow <- v` (R110). -/
def writeDuty (v : Duty) (s : State) : State := recordPort (.dutyWr v) { s with dutyShadow := v }

/-- The effect of `STEER_WR(w)`: `steer_shadow <- w`, the whole word replaced (R111). -/
def writeSteer (w : PinWord) (s : State) : State := recordPort (.steerWr w) { s with steerShadow := w }

/-- `PIN_CLR(q)`: `stale[k] <- 0` at once for the pin k that q names (R112). A word that does not name exactly one pin
(U3) and the pin that is steered (U4) have no defined effect: refused by name. -/
def clearPin (q : PinWord) (s : State) : Result :=
  if isOneBit q = false then .refused (.clearWordNotOneBit q)
  else if q &&& s.steerAct ≠ 0 then .refused (.clearOfSteeredPin q)
  else .next (recordPort (.pinClr q) { s with stale := s.stale &&& ~~~q })

/-- `CARRIER_START` (R113): both stages latched together; a pin that loses steering becomes stale. -/
def carrierStart (s : State) : State :=
  { s with
    steerAct := s.steerShadow
    dutyAct := s.dutyShadow
    stale := s.stale ||| (s.steerAct &&& ~~~s.steerShadow) }

end Sys2Proof.Machine
end

