-- ==== Sys2Proof/Machine/Commands.lean ====
section
/-! DEFINITION. The Command Dispatcher's operations (spec 42_commands.md R93 to R99). The `revalidate` that comes before
the dispatch belongs to the `CMD` step (R90, Machine/Fetch.lean). -/

namespace Sys2Proof.Machine

/-- A select command: `sel <- some(c)`; `feedback(CTRL(c))` (R93 to R96). -/
def selectChannel (c : Channel) (s : State) : State := appendFeedback (.ctrl c) { s with sel := some c }

/-- `a` or `d`: with no channel selected raise `MissingSelection`; otherwise adjust the selected channel by d and answer
`ADJ_OK` with the value after it (R97, R98). -/
def adjustSelected (d : Int) (s : State) : State :=
  match s.sel with
  | none => raiseCondition .missingSelection s
  | some c => appendFeedback (.adjOk c (dutyGet c (dutyAdjust c d s))) (dutyAdjust c d s)

/-- `SEL0` (R93). -/
def execSel0 (s : State) : Result := .next (selectChannel 0 s)

/-- `SEL2`: symbol `2` selects channel 2 (R94). -/
def execSel2 (s : State) : Result := .next (selectChannel 2 s)

/-- `SEL1`: symbol `3` selects channel 1 (R95). -/
def execSel1 (s : State) : Result := .next (selectChannel 1 s)

/-- `SEL3` (R96). -/
def execSel3 (s : State) : Result := .next (selectChannel 3 s)

/-- `INC`: adjust by +10 (R97). -/
def execInc (s : State) : Result := .next (adjustSelected Config.adjustStep s)

/-- `DEC`: adjust by -10 (R98). -/
def execDec (s : State) : Result := .next (adjustSelected (-Config.adjustStep) s)

/-- `BAD(sym)`: raise `InvalidCommand(sym)`; nothing else changes (R99). -/
def execBad (sym : Symbol) (s : State) : Result := .next (raiseCondition (.invalidCommand sym) s)

end Sys2Proof.Machine
end

