-- ==== Sys2Proof/Machine/Ports.lean ====
section
/-! DEFINITION. The port operations as the collaborator carries them out (spec 43_pwm_collaborator.md R110 to R112), with
the words that have no defined effect refused by name (R56; 93_implementation_defined.md U2 to U5). -/

namespace Sys2Proof.Machine

/-- `DUTY_WR(v)` (R110): v above `P_COUNTS` has no defined effect (U5). -/
def execDutyWr (v : Duty) (s : State) : Result :=
  if s.params.periodCounts < v then .refused (.dutyAbovePeriod v) else .next (writeDuty v s)

/-- `STEER_WR(w)` (R111): a word with several bits set has no defined effect (U2). -/
def execSteerWr (w : PinWord) (s : State) : Result :=
  if isSteerWord w then .next (writeSteer w s) else .refused (.steerWordHasSeveralBits w)

/-- `PIN_CLR(q)` (R112, U3, U4). -/
def execPinClr (q : PinWord) (s : State) : Result := clearPin q s

end Sys2Proof.Machine
end

