-- ==== Sys2Proof/Machine/Sequencer.lean ====
section
/-! DEFINITION. The Multiplex Scheduler's operations (spec 40_sequencer.md R61 to R68). -/

namespace Sys2Proof.Machine

/-- The common form of `T.ADV0..3` (R61): increment `tick`, enter `CHc`, read `T[c]` once, `DUTY_WR`, `STEER_WR`, then
record the pin of the phase left (`none` from `BLANK`; log entry 14), whatever `pend` held. The value read is programmed as it is,
out of bounds or not (R157, log entry 11). -/
def advance (c : Channel) (left : Option Pin) (s : State) : State :=
  { writeSteer (onehot c) (writeDuty (dutyGet c s) { s with tick := tickAfter s, phase := phaseOf c }) with
    pend := left }

/-- `T.MID` (R62): increment `tick`; if a pin is pending, clear it and the marker. The phase code of the selector is not
read. -/
def execTMid (_p : PhaseCode) (s : State) : Result :=
  match s.pend with
  | none => .next { s with tick := tickAfter s }
  | some k =>
    match clearPin (onehot k) { s with tick := tickAfter s } with
    | .next t => .next { t with pend := none }
    | .fault f => .fault f
    | .refused r => .refused r

/-- `T.ADV0`, `BLANK` to `CH0`: no previous active pin (R63). -/
def execTAdv0 (s : State) : Result := .next (advance 0 none s)

/-- `T.ADV1`, `CH0` to `CH1` (R64). -/
def execTAdv1 (s : State) : Result := .next (advance 1 (some 0) s)

/-- `T.ADV2`, `CH1` to `CH2` (R65). -/
def execTAdv2 (s : State) : Result := .next (advance 2 (some 1) s)

/-- `T.ADV3`, `CH2` to `CH3` (R66). -/
def execTAdv3 (s : State) : Result := .next (advance 3 (some 2) s)

/-- `T.WRAP`, `CH3` to `BLANK` (R67): disable all outputs, record P3, resynchronise `tick`. -/
def execTWrap (s : State) : Result :=
  .next { writeSteer 0b0000#4 { s with phase := phaseBlank } with pend := some 3, tick := Config.tResync }

/-- `T.RSVD`, selector 0101: no semantics in any source; "a model refuses the step" (R68, U1). -/
def execTRsvd5 (_s : State) : Result := .refused (.reservedPhase 0b101#3)

/-- `T.RSVD`, selector 0110 (R68, U1). -/
def execTRsvd6 (_s : State) : Result := .refused (.reservedPhase 0b110#3)

/-- `T.RSVD`, selector 0111 (R68, U1). -/
def execTRsvd7 (_s : State) : Result := .refused (.reservedPhase 0b111#3)

end Sys2Proof.Machine
end

