-- ==== Sys2Proof/Machine/Dispatch.lean ====
section
/-! DEFINITION. The meaning of each operation, one arm each. -/

namespace Sys2Proof.Machine

def exec (i : Instr) (s : State) : Host.Outcome State Fault Refusal :=
  match i with
  -- Format C (42_commands.md)
  | .sel0 => Sys2Proof.Machine.execSel0 s
  | .sel2 => Sys2Proof.Machine.execSel2 s
  | .sel1 => Sys2Proof.Machine.execSel1 s
  | .sel3 => Sys2Proof.Machine.execSel3 s
  | .inc => Sys2Proof.Machine.execInc s
  | .dec => Sys2Proof.Machine.execDec s
  | .bad sym => Sys2Proof.Machine.execBad sym s
  -- Format S (40_sequencer.md)
  | .tMid p => Sys2Proof.Machine.execTMid p s
  | .tAdv0 => Sys2Proof.Machine.execTAdv0 s
  | .tAdv1 => Sys2Proof.Machine.execTAdv1 s
  | .tAdv2 => Sys2Proof.Machine.execTAdv2 s
  | .tAdv3 => Sys2Proof.Machine.execTAdv3 s
  | .tWrap => Sys2Proof.Machine.execTWrap s
  | .tRsvd5 => Sys2Proof.Machine.execTRsvd5 s
  | .tRsvd6 => Sys2Proof.Machine.execTRsvd6 s
  | .tRsvd7 => Sys2Proof.Machine.execTRsvd7 s
  -- Format P (43_pwm_collaborator.md)
  | .dutyWr v => Sys2Proof.Machine.execDutyWr v s
  | .steerWr w => Sys2Proof.Machine.execSteerWr w s
  | .pinClr q => Sys2Proof.Machine.execPinClr q s

end Sys2Proof.Machine
end

