-- ==== Sys2Proof/Machine/Fetch.lean ====
section
/-! DEFINITION. Which agent moves next, and what it runs (spec 00_scope.md R7; 60_exceptions.md R137;
70_reset_and_hazards.md R159). Nothing is fetched from a memory (20_memory.md R43): a `TICK` step forms its selector from
the state (R48), a `CMD` step takes the symbol the environment delivers (R90). -/

namespace Sys2Proof.Machine

/-- What the next step is. -/
inductive Turn where
  /-- It runs the operation that w decodes to, from the state s. -/
  | run (w : RawWord) (s : State)
  /-- It decodes nothing: a `CARRIER_START`, or the environment alone moves. -/
  | move (s : State)
  /-- The run ends. -/
  | stop (f : Fault)
  deriving Repr

/-- The `TICK` step (R60): take the interrupt and run the operation that the selector names. -/
def tickStep (s : State) : Turn := .run (.selector (selector s)) (enterInterrupt s)

/-- The tick source's interrupt. Where the incremented tick is odd, `CARRIER_START` comes first and the `TICK` is the
next step, with no step between (R159); a halted tick source delivers nothing (R147). -/
def tickArrives (s : State) : Turn :=
  if s.halted then .move s
  else if oddTick s then .move { carrierStart s with tickDue := true }
  else tickStep s

/-- The `CMD(sym)` step (R90): revalidate, then dispatch. -/
def cmdStep (b : Symbol) (s : State) : Turn := .run (.symbol b) (revalidate s)

/-- The next step (R7). A tick that is due goes first; then the environment's next event; with none listed the tick
source goes on (R147 "runs unconditionally once started"), and once it is halted only the free-running carrier does
(R147). Where a tick and a symbol are ready together the tick is first (R137). -/
def takeTurn (s : State) : Turn :=
  if s.tickDue then tickStep s
  else
    match s.sched with
    | [] => if s.halted then .move (carrierStart s) else tickArrives s
    | .tick :: es => tickArrives { s with sched := es }
    | .symbol b :: es => cmdStep b { s with sched := es }
    | .tickAndSymbol b :: es => tickArrives { s with sched := .symbol b :: es }
    | .port op :: es => .run op.word { s with sched := es }
    | .carrier :: es => .move (carrierStart { s with sched := es })
    | .halt :: es => .move { s with sched := es, halted := true }
    | .timingViolation :: _ => .stop .timingViolation

/-- The state in which the next step takes the word r: a selector is put together from `phase` and the parity of `tick`
(with `tick[3:1]` equal to the phase code), a symbol or a port word is the environment's next event. That the word runs
next costs what no step of the machine does, and is the model's choice (DESIGN CHOICE, log entry 5): a symbol, a port
word or an even selector drops a `TICK` that was due; an even selector restarts a tick source that was halted (R147
names no restart but `RESET`), since its tick must arrive; an odd selector marks its tick as due without latching, as
if its `CARRIER_START` had been taken. Nothing else changes. -/
def placeWord (r : RawWord) (s : State) : State :=
  match r with
  | .symbol b => { s with sched := .symbol b :: s.sched, tickDue := false }
  | .selector x =>
    { s with
      phase := x.extractLsb' 0 3
      tick := x.extractLsb' 0 3 ++ BitVec.ofBool (!x.getLsbD 3)
      sched := if x.getLsbD 3 then s.sched else .tick :: s.sched
      tickDue := x.getLsbD 3
      halted := x.getLsbD 3 && s.halted }
  | .duty v => { s with sched := .port (.dutyWr v) :: s.sched, tickDue := false }
  | .steer w => { s with sched := .port (.steerWr w) :: s.sched, tickDue := false }
  | .clear q => { s with sched := .port (.pinClr q) :: s.sched, tickDue := false }

end Sys2Proof.Machine
end

