-- ==== Sys2Proof/Machine/Step.lean ====
section
/-! DEFINITION. One step of the machine: the step of whichever agent moves next (spec 00_scope.md R7). -/

namespace Sys2Proof.Machine

/-- One step. -/
def step (s : State) : Host.Outcome State Fault Refusal :=
  match takeTurn s with
  | .run w t => exec (decode w) t
  | .move t => .next t
  | .stop f => .fault f

/-- The host's view of fetching: the state s in which the very next step runs the table word w of `nbits` bits (log
entry 5); s itself where w is no word. -/
def State.withFetchWord (s : State) (nbits w : Nat) : State :=
  match tableWord nbits w with
  | some r => placeWord r s
  | none => s

end Sys2Proof.Machine
end

