-- ==== Sys2Proof/Machine/Fine.lean ====
section
/-! DEFINITION. The `CMD` step access by access (spec 20_memory.md R33, R38, R40): between two of its accesses to the Duty
Store a `TICK` may fall, never inside one. The machine's own `CMD` step is the whole list at once (R40; 42_commands.md
R90); this view is here so that R40 can be stated (log entry 12). -/

namespace Sys2Proof.Machine

/-- The state together with the value the foreground has read and not yet used. -/
structure Fine where
  state : State
  held : Duty
  deriving DecidableEq, Repr

/-- One indivisible act of the foreground (R33). -/
inductive Access where
  /-- One atomic read of `T[c]`. -/
  | load (c : Channel)
  /-- One atomic write of `T[c]`: the clamp of the value read plus d (R81, R82). -/
  | store (c : Channel) (d : Int)
  /-- What the dispatched operation does beside the Duty Store: `sel`, and its one message. -/
  | finish (b : Symbol)
  deriving DecidableEq, Repr

/-- What a command does beside its accesses to the Duty Store (R93 to R99). -/
def finishCommand (b : Symbol) (s : State) : State :=
  match decodeSymbol b, s.sel with
  | .sel0, _ => selectChannel 0 s
  | .sel2, _ => selectChannel 2 s
  | .sel1, _ => selectChannel 1 s
  | .sel3, _ => selectChannel 3 s
  | .inc, some c => appendFeedback (.adjOk c (dutyGet c s)) s
  | .dec, some c => appendFeedback (.adjOk c (dutyGet c s)) s
  | .inc, none => raiseCondition .missingSelection s
  | .dec, none => raiseCondition .missingSelection s
  | _, _ => raiseCondition (.invalidCommand b) s

/-- One access. -/
def Access.run (f : Fine) : Access → Fine
  | .load c => { f with held := dutyGet c f.state }
  | .store c d => { f with state := dutySet c (f.held.toNat + d) f.state }
  | .finish b => { f with state := finishCommand b f.state }

/-- Some accesses, in order. -/
def runAccesses (as : List Access) (f : Fine) : Fine := as.foldl Access.run f

/-- The accesses of `adjust(c, d)`: a read, then a write (R82). -/
def adjustAccesses (c : Channel) (d : Int) : List Access := [.load c, .store c d]

/-- The accesses of `CMD(b)` with the channel `sel` selected: `revalidate`, the dispatched operation's `adjust` if it has
one, and the rest (R84, R90). -/
def commandAccesses (b : Symbol) (sel : Option Channel) : List Access :=
  adjustAccesses 0 0 ++ adjustAccesses 1 0 ++ adjustAccesses 2 0 ++ adjustAccesses 3 0 ++
    (match decodeSymbol b, sel with
      | .inc, some c => adjustAccesses c Config.adjustStep
      | .dec, some c => adjustAccesses c (-Config.adjustStep)
      | _, _ => []) ++
    [.finish b]

/-- The whole of `CMD(b)` taken at once. -/
def wholeCommand (b : Symbol) (s : State) : Result := exec (decode (.symbol b)) (revalidate s)

end Sys2Proof.Machine
end

