-- ==== Sys2Proof/Machine/Pins.lean ====
section
/-! DEFINITION. What the pins show (spec 43_pwm_collaborator.md R114, R115). Observing a pin is no step and changes
nothing. -/

namespace Sys2Proof.Machine

/-- The level of a pin (R115). -/
inductive Level where
  /-- The pin follows the carrier. -/
  | carrier
  /-- High or low, a draw: to be counted as possibly asserted. -/
  | unknown
  /-- Low. -/
  | low
  deriving DecidableEq, Repr

/-- `out[k]` (R115). -/
def pinLevel (k : Pin) (s : State) : Level :=
  if s.steerAct.getLsbD k.val then .carrier
  else if staleFlag k s then .unknown
  else .low

/-- The carrier at a count of the current period: high for the first `duty_act` counts (R114; from general knowledge,
G2: PRESUMED, log entry 10). -/
def carrierHigh (dutyAct : Duty) (count : Nat) : Bool := count < dutyAct.toNat

/-- What the n-th observation of pin k sees at a count of the carrier period: a stale pin's level is a fresh draw each
time (R115). -/
def pinHigh (n count : Nat) (k : Pin) (s : State) : Bool :=
  match pinLevel k s with
  | .carrier => carrierHigh s.dutyAct count
  | .unknown => Config.staleLevel n k
  | .low => false

end Sys2Proof.Machine
end

