-- ==== Sys2Proof/Safety.lean ====
section
/-! DEFINITION. What claims are stated in: the constraints on the parameters (spec 00_scope.md R6), the environment of
R7, the invariants of the sequencer (40_sequencer.md R69, R70, R74) and of the collaborator (43_pwm_collaborator.md R116,
R118, R119), and the legal port operations (40_sequencer.md R73). -/

namespace Sys2Proof.Machine

/-- The constraints on the parameters (R6). -/
abbrev Params.Legal (p : Params) : Prop :=
  ∀ c : Channel, p.minDuty[c] ≤ p.maxDuty[c] ∧ p.maxDuty[c] ≤ p.periodCounts

/-- The bounds invariant (R12). -/
abbrev State.InBounds (s : State) : Prop :=
  ∀ c : Channel, s.params.minDuty[c] ≤ s.targetDuty[c] ∧ s.targetDuty[c] ≤ s.params.maxDuty[c]

/-- The events of the environment of R7: ticks, never dropped, and symbols anywhere between them. -/
def Event.fromEnvironment : Event → Bool
  | .tick | .symbol _ | .tickAndSymbol _ => true
  | .port _ | .carrier | .halt | .timingViolation => false

/-- The position invariant: `phase[2:0] = tick[3:1]` and `tick <= 9` (R69). -/
abbrev State.AtPosition (s : State) : Prop := s.phase = s.tick.extractLsb' 1 3 ∧ s.tick ≤ 9#4

/-- The pin pending at a tick count (R70). -/
def pendAt (t : TickCount) : Option Pin :=
  if t = 4 then some 0 else if t = 6 then some 1 else if t = 8 then some 2 else if t = 0 then some 3 else none

/-- The steering word of a phase: `onehot(c)` for `CHc`, 0000 for `BLANK` (R61, R67). -/
def steerOfPhase (p : PhaseCode) : PinWord :=
  if p = phaseOf 0 then onehot 0
  else if p = phaseOf 1 then onehot 1
  else if p = phaseOf 2 then onehot 2
  else if p = phaseOf 3 then onehot 3
  else 0

/-- The pin word of an optional pin: 0000 for `none`. -/
def pinWordOf : Option Pin → PinWord
  | none => 0
  | some k => onehot k

/-- The states of a run from `RESET` in the environment of R7, as an invariant that every step keeps. -/
structure Safe (s : State) : Prop where
  /-- R6. -/
  legal : s.params.Legal
  /-- R12. -/
  bounds : s.InBounds
  /-- R158 to R160: the tick source is not halted. -/
  running : s.halted = false
  /-- R7: the environment's events are ticks and symbols. -/
  environment : s.sched.all Event.fromEnvironment = true
  /-- R69. -/
  position : s.AtPosition
  /-- R159: a `CARRIER_START` has just been taken only where the incremented tick is odd. -/
  due : s.tickDue = true → oddTick s = true
  /-- R70: fixed by `tick`, but for the first tick after `RESET`. -/
  pending : s.pend = pendAt s.tick ∨ (s.tick = 0 ∧ s.pend = none)
  /-- R74: the word last written is the phase's. -/
  steerShadow : s.steerShadow = steerOfPhase s.phase
  /-- R113, R159: latched at every odd tick; at an even one the pin still steered is the one in `pend` (R116). -/
  steerAct : s.steerAct = if s.tickDue || !oddTick s then steerOfPhase s.phase else pinWordOf s.pend
  /-- R113, R116: only the pin in `pend` is stale, and only between `CARRIER_START` and its `TICK`. -/
  stale : s.stale = if s.tickDue then pinWordOf s.pend else 0
  /-- R73: what was programmed for a steered channel is within its bounds. -/
  dutyShadow : ∀ c : Channel, s.steerShadow.getLsbD c.val = true →
    s.params.minDuty[c] ≤ s.dutyShadow ∧ s.dutyShadow ≤ s.params.maxDuty[c]
  /-- R118: what a steered pin shows is within its channel's bounds. -/
  dutyAct : ∀ c : Channel, s.steerAct.getLsbD c.val = true →
    s.params.minDuty[c] ≤ s.dutyAct ∧ s.dutyAct ≤ s.params.maxDuty[c]

/-- `n` steps, stopping at the first fault or refusal. -/
def steps : Nat → State → Result
  | 0, s => .next s
  | n + 1, s =>
    match step s with
    | .next t => steps n t
    | .fault f => .fault f
    | .refused r => .refused r

/-- The lists of port operations one `TICK` step may emit (R73). -/
inductive LegalEmission (p : Params) : List PortOp → Prop where
  | nothing : LegalEmission p []
  | clear (k : Pin) : LegalEmission p [.pinClr (onehot k)]
  | programme (c : Channel) (v : Duty) (low : p.minDuty[c] ≤ v) (high : v ≤ p.maxDuty[c])
      (period : v ≤ p.periodCounts) : LegalEmission p [.dutyWr v, .steerWr (onehot c)]
  | disable : LegalEmission p [.steerWr 0]

/-- Two states that a scheduler which sees no duty value and no command cannot tell apart (R71, R102). -/
structure SameSchedule (s t : State) : Prop where
  params : s.params = t.params
  tick : s.tick = t.tick
  phase : s.phase = t.phase
  pend : s.pend = t.pend
  steerShadow : s.steerShadow = t.steerShadow
  steerAct : s.steerAct = t.steerAct
  stale : s.stale = t.stale
  sched : s.sched = t.sched
  tickDue : s.tickDue = t.tickDue
  halted : s.halted = t.halted

/-- What the scheduler and the collaborator own is the same in both states (R36, R141, R165): everything a `CMD` step
must leave alone, but for the event it consumes. -/
structure SameScheduler (s t : State) : Prop where
  params : t.params = s.params
  tick : t.tick = s.tick
  phase : t.phase = s.phase
  pend : t.pend = s.pend
  dutyShadow : t.dutyShadow = s.dutyShadow
  dutyAct : t.dutyAct = s.dutyAct
  steerShadow : t.steerShadow = s.steerShadow
  steerAct : t.steerAct = s.steerAct
  stale : t.stale = s.stale
  portTrace : t.portTrace = s.portTrace
  tickDue : t.tickDue = s.tickDue
  halted : t.halted = s.halted

/-- What the foreground owns is the same in both states (R36, R141, R165): everything a `TICK` step must leave alone. -/
structure SameForeground (s t : State) : Prop where
  targetDuty : t.targetDuty = s.targetDuty
  params : t.params = s.params
  sel : t.sel = s.sel
  feedback : t.feedback = s.feedback

end Sys2Proof.Machine
end

