-- ==== Sys2Proof/Certificates/Slice0/Obligations.lean ====
section
/-! DEFINITION. The statements for the provers. Each docstring names the rule of spec/ it comes from, and says where the
spec itself marks that rule as derived from others. -/

open Sys2Proof Sys2Proof.Machine

/-! ### Reset -/

/-- R150: every element after `RESET`. The parameters of channels 1 to 3 are open and only their order (R6) is known;
the two duty registers of the collaborator are unspecified, so nothing is said of them. -/
def Obligations.ResetLeavesTheResetValues : Prop :=
  State.reset.tick = 0 ∧ State.reset.phase = phaseBlank ∧ State.reset.pend = none ∧ State.reset.sel = none ∧
    State.reset.targetDuty[(0 : Channel)] = 312 ∧
    State.reset.params.minDuty[(0 : Channel)] = 142 ∧ State.reset.params.maxDuty[(0 : Channel)] = 592 ∧
    (∀ c : Channel, State.reset.targetDuty[c] = Config.initDuty c ∧
      State.reset.params.minDuty[c] ≤ State.reset.targetDuty[c] ∧
      State.reset.targetDuty[c] ≤ State.reset.params.maxDuty[c]) ∧
    State.reset.steerShadow = 0 ∧ State.reset.steerAct = 0 ∧ (∀ k : Pin, staleFlag k State.reset = false) ∧
    State.reset.feedback = []

/-- The invariant holds after `RESET` (R12, R69, R70, R119 at reset). -/
def Obligations.ResetIsSafe : Prop := Safe State.reset

/-! ### Encodings -/

/-- R54 (the spec derives it from R46): the six named symbols decode to their operations (R46) and each of the 250
others to `BAD`, among them `A`, `D`, `0`, `5` to `9`, space, CR, LF, NUL and every value from 0x80 up. -/
def Obligations.UnnamedSymbolsAreBad : Prop :=
  decode (.symbol 0x31#8) = .sel0 ∧ decode (.symbol 0x32#8) = .sel2 ∧ decode (.symbol 0x33#8) = .sel1 ∧
    decode (.symbol 0x34#8) = .sel3 ∧ decode (.symbol 0x61#8) = .inc ∧ decode (.symbol 0x64#8) = .dec ∧
    (∀ b : Symbol, b ≠ 0x31#8 → b ≠ 0x32#8 → b ≠ 0x33#8 → b ≠ 0x34#8 → b ≠ 0x61#8 → b ≠ 0x64#8 →
      decode (.symbol b) = .bad b) ∧
    ((List.range 256).filter fun n =>
      decide (decode (.symbol (BitVec.ofNat 8 n)) = .bad (BitVec.ofNat 8 n))).length = 250

/-- R48: the selector is the parity of the incremented tick over the phase code, and decodes by the table. -/
def Obligations.SelectorsDecodeByTheTable : Prop :=
  (∀ s : State, (selector s).getLsbD 3 = decide ((s.tick.toNat + 1) % 2 = 1) ∧
    (selector s).extractLsb' 0 3 = s.phase) ∧
  (∀ p : PhaseCode, decode (.selector (1#1 ++ p)) = .tMid p) ∧
  decode (.selector 0b0000#4) = .tAdv0 ∧ decode (.selector 0b0001#4) = .tAdv1 ∧
  decode (.selector 0b0010#4) = .tAdv2 ∧ decode (.selector 0b0011#4) = .tAdv3 ∧
  decode (.selector 0b0100#4) = .tWrap ∧ decode (.selector 0b0101#4) = .tRsvd5 ∧
  decode (.selector 0b0110#4) = .tRsvd6 ∧ decode (.selector 0b0111#4) = .tRsvd7

/-- Decode and encode agree, both ways and down to the bits as numbers: what decodes to a well-formed operation is that
operation's word, in its format, and no other; and every well-formed operation has such a word. -/
def Obligations.DecodeAndEncodeAgree : Prop :=
  ∀ (i : Instr) (f : Format) (n : Nat),
    (decodeNat f n = .ok i ↔ i.wf = true ∧ f = (encode i).format ∧ n = (encode i).bits)

/-! ### Steps -/

/-- A step runs the decoded operation, with what the step adds round it: a tick that is due runs the operation of the
selector; an even tick does so at once, an odd one takes `CARRIER_START` first (R60, R159); a symbol is revalidated,
then dispatched (R90); a port word is carried out (R7). That ticks go on with nothing listed, the mark `tickDue` and
the events are the model's own form (log entries 3, 4 and 7). -/
def Obligations.StepRunsTheDecodedOperation : Prop :=
  (∀ s : State, s.tickDue = true →
    step s = exec (decode (.selector (selector s))) { s with tickDue := false }) ∧
  (∀ s : State, s.tickDue = false → s.halted = false → s.sched = [] → oddTick s = false →
    step s = exec (decode (.selector (selector s))) s) ∧
  (∀ s : State, s.tickDue = false → s.halted = false → s.sched = [] → oddTick s = true →
    step s = .next { carrierStart s with tickDue := true }) ∧
  (∀ (s : State) (es : List Event), s.tickDue = false → s.halted = false → s.sched = .tick :: es →
    oddTick s = false → step s = exec (decode (.selector (selector s))) { s with sched := es }) ∧
  (∀ (s : State) (es : List Event), s.tickDue = false → s.halted = false → s.sched = .tick :: es →
    oddTick s = true → step s = .next { carrierStart s with tickDue := true, sched := es }) ∧
  (∀ (s : State) (b : Symbol) (es : List Event), s.tickDue = false → s.sched = .symbol b :: es →
    step s = exec (decode (.symbol b)) (revalidate { s with sched := es })) ∧
  (∀ (s : State) (op : PortOp) (es : List Event), s.tickDue = false → s.sched = .port op :: es →
    step s = exec (decode op.word) { s with sched := es }) ∧
  (∀ (s : State) (es : List Event), s.tickDue = false → s.sched = .carrier :: es →
    step s = .next (carrierStart { s with sched := es }))

/-- R137: a tick and a symbol that are ready together are a tick and then the symbol. -/
def Obligations.TickGoesBeforeASymbolReadyWithIt : Prop :=
  ∀ (s : State) (b : Symbol) (es : List Event), s.tickDue = false → s.sched = .tickAndSymbol b :: es →
    step s = step { s with sched := .tick :: .symbol b :: es }

/-- The model's own convention (log entry 5, which says what placing a word does to a tick that is due or a tick source
that is halted): the state `withFetchWord` makes runs the table word's operation next, and the scheduler's pending
pin, the selection, the outputs and the events still to come are as they were. -/
def Obligations.PlacedWordRunsNext : Prop :=
  ∀ (s : State) (nbits w : Nat) (i : Instr), decodeTableWord nbits w = some i →
    ∃ u, step (s.withFetchWord nbits w) = exec i u ∧ u.params = s.params ∧ u.pend = s.pend ∧ u.sel = s.sel ∧
      u.dutyShadow = s.dutyShadow ∧ u.dutyAct = s.dutyAct ∧ u.steerShadow = s.steerShadow ∧ u.steerAct = s.steerAct ∧
      u.stale = s.stale ∧ u.feedback = s.feedback ∧ u.portTrace = s.portTrace ∧ u.sched = s.sched

/-! ### The Multiplex Scheduler -/

/-- R62 for the first two clauses: `T.MID` increments `tick`; with nothing pending that is all; with a pin pending it
clears that pin and the marker. R62's pseudocode emits the clear in every state; that the clear of a pin still
steered has no defined effect and the step is refused comes from R112 and U4. -/
def Obligations.MidTickClearsThePendingPin : Prop :=
  ∀ (s : State) (p : PhaseCode),
    decode (.selector (1#1 ++ p)) = .tMid p ∧
    (s.pend = none → exec (.tMid p) s = .next { s with tick := s.tick + 1 }) ∧
    (∀ k : Pin, s.pend = some k → s.steerAct.getLsbD k.val = false →
      exec (.tMid p) s = .next { s with
        tick := s.tick + 1, pend := none, stale := s.stale &&& ~~~(onehot k),
        portTrace := s.portTrace ++ [.pinClr (onehot k)] }) ∧
    (∀ k : Pin, s.pend = some k → s.steerAct.getLsbD k.val = true →
      exec (.tMid p) s = .refused (.clearOfSteeredPin (onehot k)))

/-- R63 to R66: each advance operation, from every state, with its whole frame. That it programs `T[c]` also above
`P_COUNTS` is log entry 11 (DEDUCED, R157 against U5); that it records the constant pin of its rule also when it is
run in a phase other than its selector's is log entry 14 (DEDUCED). -/
def Obligations.AdvanceProgramsDutyThenSteering : Prop :=
  decode (.selector 0b0000#4) = .tAdv0 ∧ decode (.selector 0b0001#4) = .tAdv1 ∧
  decode (.selector 0b0010#4) = .tAdv2 ∧ decode (.selector 0b0011#4) = .tAdv3 ∧
  ∀ s : State,
    exec .tAdv0 s = .next { s with
      tick := s.tick + 1, phase := 0b001#3, dutyShadow := s.targetDuty[(0 : Channel)], steerShadow := 0b0001#4,
      pend := none, portTrace := s.portTrace ++ [.dutyWr s.targetDuty[(0 : Channel)], .steerWr 0b0001#4] } ∧
    exec .tAdv1 s = .next { s with
      tick := s.tick + 1, phase := 0b010#3, dutyShadow := s.targetDuty[(1 : Channel)], steerShadow := 0b0010#4,
      pend := some 0, portTrace := s.portTrace ++ [.dutyWr s.targetDuty[(1 : Channel)], .steerWr 0b0010#4] } ∧
    exec .tAdv2 s = .next { s with
      tick := s.tick + 1, phase := 0b011#3, dutyShadow := s.targetDuty[(2 : Channel)], steerShadow := 0b0100#4,
      pend := some 1, portTrace := s.portTrace ++ [.dutyWr s.targetDuty[(2 : Channel)], .steerWr 0b0100#4] } ∧
    exec .tAdv3 s = .next { s with
      tick := s.tick + 1, phase := 0b100#3, dutyShadow := s.targetDuty[(3 : Channel)], steerShadow := 0b1000#4,
      pend := some 2, portTrace := s.portTrace ++ [.dutyWr s.targetDuty[(3 : Channel)], .steerWr 0b1000#4] }

/-- R67: `T.WRAP`, from every state, with its whole frame. -/
def Obligations.WrapDisablesOutputsAndRecordsP3 : Prop :=
  decode (.selector 0b0100#4) = .tWrap ∧ ∀ s : State, exec .tWrap s = .next { s with
    tick := 0, phase := phaseBlank, steerShadow := 0b0000#4, pend := some 3,
    portTrace := s.portTrace ++ [.steerWr 0b0000#4] }

/-- R68: the reserved selectors are refused by name, in every state. -/
def Obligations.ReservedSelectorsAreRefused : Prop :=
  decode (.selector 0b0101#4) = .tRsvd5 ∧ decode (.selector 0b0110#4) = .tRsvd6 ∧
  decode (.selector 0b0111#4) = .tRsvd7 ∧
  ∀ s : State,
    exec .tRsvd5 s = .refused (.reservedPhase 0b101#3) ∧ exec .tRsvd6 s = .refused (.reservedPhase 0b110#3) ∧
    exec .tRsvd7 s = .refused (.reservedPhase 0b111#3)

/-- R36, R141, R165: no sequencer operation touches what the foreground owns, what the collaborator latches, or the
environment. -/
def Obligations.TicksLeaveTheForegroundAlone : Prop :=
  ∀ (x : Selector) (s t : State), exec (decode (.selector x)) s = .next t →
    SameForeground s t ∧ t.dutyAct = s.dutyAct ∧ t.steerAct = s.steerAct ∧ t.sched = s.sched ∧
      t.tickDue = s.tickDue ∧ t.halted = s.halted

/-- R73 (the spec derives it from R61 to R67, R12): what a `TICK` step emits, in every state whose store is within legal
bounds. -/
def Obligations.TickEmissionsAreLegal : Prop :=
  ∀ (x : Selector) (s t : State), s.params.Legal → s.InBounds → exec (decode (.selector x)) s = .next t →
    ∃ ops, t.portTrace = s.portTrace ++ ops ∧ LegalEmission s.params ops

/-- R69 (the spec derives it from R60 to R67): the position invariant holds at reset, every step keeps it, and it
excludes the reserved selectors. -/
def Obligations.PositionIsKept : Prop :=
  State.reset.AtPosition ∧
  (∀ s t : State, s.AtPosition → step s = .next t → t.AtPosition) ∧
  (∀ s : State, s.AtPosition → decode (.selector (selector s)) ≠ .tRsvd5 ∧
    decode (.selector (selector s)) ≠ .tRsvd6 ∧ decode (.selector (selector s)) ≠ .tRsvd7)

/-- R14, with R72 (the spec derives it from R71): the position moves by one round a ring of ten, or not at all; `phase`
goes to its next value at the even ticks and nowhere else (R72). -/
def Obligations.PositionMovesRoundTheRing : Prop :=
  ∀ s t : State, s.AtPosition → step s = .next t →
    (t.tick = s.tick ∧ t.phase = s.phase) ∨
    (t.tick = (if s.tick = 9 then 0 else s.tick + 1) ∧
      t.phase = (if oddTick s then s.phase else nextPhase s.phase))

/-! ### The Duty Store -/

/-- R80: `clamp`, with the bounds in order. -/
def Obligations.ClampCutsAtInclusiveBounds : Prop :=
  ∀ lo hi v : Int, lo ≤ hi →
    (v < lo → clamp lo hi v = lo) ∧ (hi < v → clamp lo hi v = hi) ∧ (lo ≤ v → v ≤ hi → clamp lo hi v = v)

/-- R81: `set(c, v)` for any integer stores the clamped value whole, and writes nothing else. -/
def Obligations.SetStoresTheClampedValue : Prop :=
  ∀ (s : State) (c : Channel) (v : Int), s.params.Legal →
    ((dutyGet c (dutySet c v s)).toNat : Int) =
      min (max v s.params.minDuty[c].toNat) s.params.maxDuty[c].toNat ∧
    (∀ d : Channel, d ≠ c → dutyGet d (dutySet c v s) = dutyGet d s) ∧
    dutySet c v s = { s with targetDuty := (dutySet c v s).targetDuty }

/-- R82: `adjust(c, d)` clamps the mathematical sum, and writes nothing else. -/
def Obligations.AdjustClampsAfterTheSum : Prop :=
  ∀ (s : State) (c : Channel) (d : Int), s.params.Legal →
    ((dutyGet c (dutyAdjust c d s)).toNat : Int) =
      min (max ((s.targetDuty[c].toNat : Int) + d) s.params.minDuty[c].toNat) s.params.maxDuty[c].toNat ∧
    (∀ e : Channel, e ≠ c → dutyGet e (dutyAdjust c d s) = dutyGet e s) ∧
    dutyAdjust c d s = { s with targetDuty := (dutyAdjust c d s).targetDuty }

/-- R85 (the spec derives it from R80): clamping is idempotent once applied; a value within the bounds is its own clamp.
-/ def Obligations.ClampingIsIdempotent : Prop := (∀ lo hi v : Int, lo ≤ hi → clamp lo hi (clamp lo hi v) = clamp lo
hi v ∧ (lo ≤ v → v ≤ hi → clamp lo hi v = v)) ∧ (∀ (s : State) (c : Channel) (v : Int), s.params.Legal → dutySet c
(dutyGet c (dutySet c v s)).toNat (dutySet c v s) = dutySet c v s) /-- R87 (the spec derives it from R80 and R82): n
adjustments up reach min(x + 10n, MAX), n down reach max(x - 10n, MIN); up then down from 590 is 582. -/
def Obligations.RepeatedAdjustmentsReach : Prop :=
  (∀ (s : State) (c : Channel) (n : Nat), s.params.Legal → s.InBounds →
    ((dutyGet c ((dutyAdjust c 10)^[n] s)).toNat : Int) =
      min ((s.targetDuty[c].toNat : Int) + 10 * n) s.params.maxDuty[c].toNat ∧
    ((dutyGet c ((dutyAdjust c (-10))^[n] s)).toNat : Int) =
      max ((s.targetDuty[c].toNat : Int) - 10 * n) s.params.minDuty[c].toNat) ∧
  (∀ s : State, s.params.minDuty[(0 : Channel)] = 142 → s.params.maxDuty[(0 : Channel)] = 592 →
    s.targetDuty[(0 : Channel)] = 590 → dutyGet 0 (dutyAdjust 0 (-10) (dutyAdjust 0 10 s)) = 582)

/-- R84, R157: `revalidate` clamps every channel, changes nothing within bounds, and repairs a store out of them. -/
def Obligations.RevalidateClampsEveryChannel : Prop :=
  ∀ s : State, s.params.Legal →
    (∀ c : Channel, ((dutyGet c (revalidate s)).toNat : Int) =
      min (max (s.targetDuty[c].toNat : Int) s.params.minDuty[c].toNat) s.params.maxDuty[c].toNat) ∧
    (revalidate s).InBounds ∧
    revalidate s = { s with targetDuty := (revalidate s).targetDuty } ∧
    (s.InBounds → revalidate s = s)

/-- R12 (the spec derives it from R10, R6, R80 to R84): the bounds invariant holds at reset and every step keeps it,
whatever the environment does. -/
def Obligations.BoundsAreKept : Prop :=
  State.reset.params.Legal ∧ State.reset.InBounds ∧
  ∀ s t : State, s.params.Legal → s.InBounds → step s = .next t → t.params = s.params ∧ t.InBounds

/-! ### The Command Dispatcher -/

/-- R93 to R96: the select commands, from every state, with their whole frame; `2` is channel 2 and `3` is channel 1. -/
def Obligations.SelectCommandsSelectAndAnswer : Prop :=
  decode (.symbol 0x31#8) = .sel0 ∧ decode (.symbol 0x32#8) = .sel2 ∧ decode (.symbol 0x33#8) = .sel1 ∧
  decode (.symbol 0x34#8) = .sel3 ∧
  ∀ s : State,
    exec .sel0 s = .next { s with sel := some 0, feedback := s.feedback ++ [.ctrl 0] } ∧
    exec .sel2 s = .next { s with sel := some 2, feedback := s.feedback ++ [.ctrl 2] } ∧
    exec .sel1 s = .next { s with sel := some 1, feedback := s.feedback ++ [.ctrl 1] } ∧
    exec .sel3 s = .next { s with sel := some 3, feedback := s.feedback ++ [.ctrl 3] }

/-- R97, R98, R131: `a` and `d` with channel c selected move `T[c]` by 10 under the clamp, answer with the new value,
and write nothing else; with no channel selected they answer `please select a channel` and write nothing. -/
def Obligations.AdjustCommandsMoveTheSelectedChannel : Prop :=
  decode (.symbol 0x61#8) = .inc ∧ decode (.symbol 0x64#8) = .dec ∧
  (∀ s : State, s.sel = none →
    exec .inc s = .next { s with feedback := s.feedback ++ [.noSel] } ∧
    exec .dec s = .next { s with feedback := s.feedback ++ [.noSel] }) ∧
  ∀ (s : State) (c : Channel), s.sel = some c → s.params.Legal →
    (∃ t, exec .inc s = .next t ∧
      (t.targetDuty[c].toNat : Int) =
        min (max ((s.targetDuty[c].toNat : Int) + 10) s.params.minDuty[c].toNat) s.params.maxDuty[c].toNat ∧
      (∀ d : Channel, d ≠ c → t.targetDuty[d] = s.targetDuty[d]) ∧
      t.feedback = s.feedback ++ [.adjOk c t.targetDuty[c]] ∧
      t = { s with targetDuty := t.targetDuty, feedback := t.feedback }) ∧
    (∃ t, exec .dec s = .next t ∧
      (t.targetDuty[c].toNat : Int) =
        min (max ((s.targetDuty[c].toNat : Int) - 10) s.params.minDuty[c].toNat) s.params.maxDuty[c].toNat ∧
      (∀ d : Channel, d ≠ c → t.targetDuty[d] = s.targetDuty[d]) ∧
      t.feedback = s.feedback ++ [.adjOk c t.targetDuty[c]] ∧
      t = { s with targetDuty := t.targetDuty, feedback := t.feedback })

/-- R99, R132: any other symbol is answered with itself and changes nothing. -/
def Obligations.BadSymbolIsEchoedAndChangesNothing : Prop :=
  ∀ (s : State) (b : Symbol),
    (b ≠ 0x31#8 → b ≠ 0x32#8 → b ≠ 0x33#8 → b ≠ 0x34#8 → b ≠ 0x61#8 → b ≠ 0x64#8 → decode (.symbol b) = .bad b) ∧
    exec (.bad b) s = .next { s with feedback := s.feedback ++ [.invalid b] }

/-- R101 (the spec derives it from R90 to R99): every command step, for each symbol and from every state, ends in a next
state and appends one message; it leaves the scheduler and the collaborator alone; and where the store was within
its bounds it changes `sel` or one `T[c]`, never both. -/
def Obligations.EveryCommandAnswersOnce : Prop :=
  ∀ (s : State) (b : Symbol) (es : List Event), s.tickDue = false → s.sched = .symbol b :: es →
    ∃ t m, step s = .next t ∧ t.feedback = s.feedback ++ [m] ∧ SameScheduler s t ∧ t.sched = es ∧
      (s.params.Legal → s.InBounds →
        t.targetDuty = s.targetDuty ∨
        (t.sel = s.sel ∧ ∃ c : Channel, ∀ d : Channel, d ≠ c → t.targetDuty[d] = s.targetDuty[d]))

/-- R100 (the spec derives it from R93 to R99): a selection, once made, stays one; only a select command changes it;
`MissingSelection` is reported only while there is none. -/
def Obligations.SelectionIsSticky : Prop :=
  ∀ s t : State, step s = .next t →
    (s.sel ≠ none → t.sel ≠ none) ∧
    (t.sel ≠ s.sel → ∃ b es, s.sched = .symbol b :: es ∧
      (decode (.symbol b) = .sel0 ∨ decode (.symbol b) = .sel1 ∨ decode (.symbol b) = .sel2 ∨
        decode (.symbol b) = .sel3)) ∧
    (t.feedback = s.feedback ++ [.noSel] → s.sel = none)

/-- R91, R92: the literal texts, character for character, written as 8-bit ASCII codes; R91 leaves the character set out
of the block, and the codes are the model's choice (PRESUMED, log entry 10). `ADJ_OK`'s text is open, and nothing is
said of it. -/
def Obligations.FeedbackTextsAreTheSources : Prop :=
  (Message.ctrl 0).text = ascii "controlling channel 0" ∧ (Message.ctrl 1).text = ascii "controlling channel 1" ∧
  (Message.ctrl 2).text = ascii "controlling channel 2" ∧ (Message.ctrl 3).text = ascii "controlling channel 3" ∧
  Message.noSel.text = ascii "please select a channel" ∧
  (∀ b : Symbol, (Message.invalid b).text = ascii "invalid command: " ++ [b])

/-- R134 (the spec derives it from R90, R97 to R99): the message of a command step records at most one condition, and
which one is fixed by the operation: `BAD` never tests `sel`. -/
def Obligations.OneConditionACommandAtMost : Prop :=
  ∀ (s : State) (b : Symbol) (es : List Event), s.tickDue = false → s.sched = .symbol b :: es →
    ∃ t m, step s = .next t ∧ t.feedback = s.feedback ++ [m] ∧
      m.condition =
        (if decode (.symbol b) = .bad b then some (.invalidCommand b)
        else if (decode (.symbol b) = .inc ∨ decode (.symbol b) = .dec) ∧ s.sel = none then some .missingSelection
        else none)

/-! ### The collaborator -/

/-- R110: `DUTY_WR`, with its whole frame; above `P_COUNTS` it has no defined effect and is refused. -/
def Obligations.DutyWriteGoesToTheShadow : Prop :=
  ∀ (s : State) (v : Duty),
    (v ≤ s.params.periodCounts →
      exec (.dutyWr v) s = .next { s with dutyShadow := v, portTrace := s.portTrace ++ [.dutyWr v] }) ∧
    (s.params.periodCounts < v → exec (.dutyWr v) s = .refused (.dutyAbovePeriod v))

/-- R111: `STEER_WR` replaces the whole shadow word; a word with several bits set is refused. -/
def Obligations.SteerWriteReplacesTheShadow : Prop :=
  ∀ (s : State) (w : PinWord),
    ((w = 0 ∨ ∃ k : Pin, w = onehot k) →
      exec (.steerWr w) s = .next { s with steerShadow := w, portTrace := s.portTrace ++ [.steerWr w] }) ∧
    (w ≠ 0 → (∀ k : Pin, w ≠ onehot k) → exec (.steerWr w) s = .refused (.steerWordHasSeveralBits w))

/-- R112, R56: `PIN_CLR` of one pin that is not steered clears its flag at once; of the steered pin, or with a word that
does not name one pin, it is refused. -/
def Obligations.PinClearTakesEffectAtOnce : Prop :=
  ∀ s : State,
    (∀ k : Pin, s.steerAct.getLsbD k.val = false →
      ∃ t, exec (.pinClr (onehot k)) s = .next t ∧ pinLevel k t = .low ∧
        (∀ j : Pin, j ≠ k → staleFlag j t = staleFlag j s) ∧
        t = { s with stale := t.stale, portTrace := s.portTrace ++ [.pinClr (onehot k)] }) ∧
    (∀ k : Pin, s.steerAct.getLsbD k.val = true →
      exec (.pinClr (onehot k)) s = .refused (.clearOfSteeredPin (onehot k))) ∧
    (∀ q : PinWord, (∀ k : Pin, q ≠ onehot k) → exec (.pinClr q) s = .refused (.clearWordNotOneBit q))

/-- R113: `CARRIER_START` latches both stages together and marks the pin that lost steering. -/
def Obligations.CarrierStartLatchesBothStages : Prop :=
  ∀ s : State,
    (carrierStart s).steerAct = s.steerShadow ∧ (carrierStart s).dutyAct = s.dutyShadow ∧
    (∀ k : Pin, staleFlag k (carrierStart s) =
      (staleFlag k s || (s.steerAct.getLsbD k.val && !s.steerShadow.getLsbD k.val))) ∧
    carrierStart s = { s with
      steerAct := s.steerShadow, dutyAct := s.dutyShadow, stale := (carrierStart s).stale }

/-- R159: in a safe run what the pins show is latched only by the `CARRIER_START` of an odd tick, and the step after it
is that tick's `T.MID`. -/
def Obligations.CarrierStartComesWithOddTicks : Prop :=
  (∀ s t : State, Safe s → step s = .next t → (t.steerAct ≠ s.steerAct ∨ t.dutyAct ≠ s.dutyAct) →
    oddTick s = true ∧ s.tickDue = false ∧ t.tickDue = true) ∧
  (∀ s : State, Safe s → s.tickDue = true →
    decode (.selector (selector s)) = .tMid s.phase ∧
    ∃ t, step s = .next t ∧ t.tickDue = false ∧ t.tick = s.tick + 1)

/-! ### Pins -/

/-- R115: the level of a pin, by its table. That the n-th observation of a stale pin sees the free value
`Config.staleLevel n k` is the model's form of R115's fresh draw (DESIGN CHOICE, log entry 8). A low pin is never
seen high. -/
def Obligations.PinLevelsByTheTable : Prop :=
  ∀ (s : State) (k : Pin),
    (s.steerAct.getLsbD k.val = true → pinLevel k s = .carrier) ∧
    (s.steerAct.getLsbD k.val = false → staleFlag k s = true →
      pinLevel k s = .unknown ∧ ∀ n count, pinHigh n count k s = Config.staleLevel n k) ∧
    (s.steerAct.getLsbD k.val = false → staleFlag k s = false →
      pinLevel k s = .low ∧ ∀ n count, pinHigh n count k s = false)

/-- R114 (the waveform is the spec's general knowledge G2, log entry 10): over the counts of one period the steered pin
is high for exactly `duty_act` of them, the first ones, whichever observation is made. -/
def Obligations.CarrierIsHighForTheDuty : Prop :=
  ∀ (s : State) (k : Pin) (obs : Nat → Nat), s.steerAct.getLsbD k.val = true → s.dutyAct ≤ s.params.periodCounts →
    ((List.range s.params.periodCounts.toNat).filter fun n => pinHigh (obs n) n k s).length = s.dutyAct.toNat ∧
    ∀ n m, pinHigh (obs n) n k s = true → m ≤ n → pinHigh (obs m) m k s = true

/-- R116 (the spec derives it from R111 to R113, R61, R62, R67, R70): the pin the arbiter is about to clear is released
and stale, and is low once cleared. -/
def Obligations.ArbiterClearsAReleasedPin : Prop :=
  ∀ (s : State) (k : Pin), Safe s → s.tickDue = true → s.pend = some k →
    s.steerAct.getLsbD k.val = false ∧ staleFlag k s = true ∧
    ∃ t, step s = .next t ∧ t.pend = none ∧ pinLevel k t = .low ∧
      t.portTrace = s.portTrace ++ [.pinClr (onehot k)]

/-- R117 (the spec derives it from R113, R115, R71): with no command given, every pin is low from reset until the second
`CARRIER_START`, which is the fourth step and puts the carrier on P0 with channel 0's duty. -/
def Obligations.PinsAreLowUntilTheSecondCarrierStart : Prop :=
  (∀ n, n ≤ 3 → ∃ t, steps n State.reset = .next t ∧ ∀ k : Pin, pinLevel k t = .low) ∧
  ∃ t, steps 4 State.reset = .next t ∧ pinLevel 0 t = .carrier ∧ t.dutyAct = 312 ∧ t.tick = 2 ∧
    t.tickDue = true

/-- R118 (the spec derives it from R110, R111, R113, R61): the duty that `T.ADVc` reads is what pin c shows from the
next `CARRIER_START` on. -/
def Obligations.ShownDutyIsTheOneRead : Prop :=
  ∀ (s : State) (c : Channel), Safe s → s.sched = [] → s.tick.toNat = 2 * c.val + 1 →
    ∃ t u, step s = .next t ∧ step t = .next u ∧
      t.dutyAct = s.dutyAct ∧ t.steerAct = s.steerAct ∧
      u.steerAct = onehot c ∧ u.dutyAct = s.targetDuty[c]

/-- R119 (the spec derives it from R113, R115, R116, R70, R74): in a safe state, but for the one between a
`CARRIER_START` and its `T.MID`, at most one pin is not low, and that one is the steered pin. -/
def Obligations.AtMostOnePinIsDriven : Prop :=
  ∀ s : State, Safe s → s.tickDue = false →
    ∀ j k : Pin, pinLevel j s ≠ .low → pinLevel k s ≠ .low → j = k ∧ s.steerAct.getLsbD j.val = true

/-- R163 (the spec derives it from R113, R115, R119): in the excepted state the pins that are not low are the released
one, whose level is unknown, and the newly steered one. -/
def Obligations.StaleWindowHoldsTheReleasedPin : Prop :=
  ∀ (s : State) (k : Pin), Safe s → s.tickDue = true → s.pend = some k →
    pinLevel k s = .unknown ∧
    ∀ j : Pin, j ≠ k → (pinLevel j s ≠ .low ↔ s.steerShadow.getLsbD j.val = true)

/-- R75 (the spec derives it from R71): through the blank slot nothing is steered by the shadow word, and no step that
stays in it emits anything but a pin clear. -/
def Obligations.BlankSlotEmitsNoDuty : Prop :=
  ∀ s t : State, Safe s → s.phase = phaseBlank → step s = .next t →
    s.steerShadow = 0 ∧ (t.phase = phaseBlank →
      t.steerShadow = 0 ∧ (t.portTrace = s.portTrace ∨ t.portTrace = s.portTrace ++ [.pinClr (onehot 3)]))

/-! ### Whole-machine statements -/

/-- R12, R69, R70, R74, R116, R118 together: every step keeps the invariant. -/
def Obligations.EveryStepKeepsSafe : Prop :=
  ∀ s t : State, Safe s → step s = .next t → Safe t

/-- R76, R101: in a safe state every step has a next state; there is no error path. -/
def Obligations.SafeRunsNeverStop : Prop :=
  ∀ (s : State) (n : Nat), Safe s → ∃ t, steps n s = .next t ∧ Safe t

/-- R71 (the spec derives it from R60 to R67, R69, R70): the round. From a safe state at the start of a round, with no
command given, ten ticks (and the five `CARRIER_START`s that come with them) emit exactly these operations and end
at the start of the next round. That this is 15 steps is the model's form (log entry 4). -/
def Obligations.RoundEmitsItsTrace : Prop :=
  ∀ s : State, Safe s → s.tick = 0 → s.tickDue = false → s.sched = [] →
    ∃ t, steps 15 s = .next t ∧
      t.portTrace = s.portTrace ++
        (if s.pend = none then [] else [.pinClr 0b1000#4]) ++
        [.dutyWr s.targetDuty[(0 : Channel)], .steerWr 0b0001#4,
         .dutyWr s.targetDuty[(1 : Channel)], .steerWr 0b0010#4, .pinClr 0b0001#4,
         .dutyWr s.targetDuty[(2 : Channel)], .steerWr 0b0100#4, .pinClr 0b0010#4,
         .dutyWr s.targetDuty[(3 : Channel)], .steerWr 0b1000#4, .pinClr 0b0100#4,
         .steerWr 0b0000#4] ∧
      t = { s with
        pend := some 3, steerAct := 0b1000#4, dutyAct := s.targetDuty[(3 : Channel)],
        dutyShadow := s.targetDuty[(3 : Channel)], portTrace := t.portTrace }

/-- R120 (the spec derives it from R113 to R115, R71, R159): the pins over a round. From a safe state at the start of a
round, with no command given: through the carrier period that the round's first `CARRIER_START` opens every pin is
low, and through each of the four others exactly one pin carries the carrier, in the order P0 to P3, with the duty
its channel has. The step numbers are the model's form (log entry 4). -/
def Obligations.EachPinCarriesOnePulseARound : Prop :=
  ∀ s : State, Safe s → s.tick = 0 → s.tickDue = false → s.sched = [] →
    (∀ n, n = 2 ∨ n = 3 → ∃ t, steps n s = .next t ∧ t.steerAct = 0 ∧ ∀ k : Pin, pinLevel k t = .low) ∧
    ∀ (c : Channel) (n : Nat), n = 3 * c.val + 5 ∨ n = 3 * c.val + 6 →
      ∃ t, steps n s = .next t ∧ t.steerAct = onehot c ∧ t.dutyAct = s.targetDuty[c] ∧
        ∀ k : Pin, pinLevel k t = if k = c then .carrier else .low

/-- R71, R102: the sequence of operations depends on no duty value, no selection and no message: two states that differ
only there take steps that differ only there, and stop alike. -/
def Obligations.CommandsDoNotMoveTheSchedule : Prop :=
  ∀ s t : State, SameSchedule s t →
    match step s, step t with
    | .next s', .next t' => SameSchedule s' t'
    | .fault f, .fault g => f = g
    | .refused q, .refused r => q = r
    | _, _ => False

/-- R164 (the spec derives it from R39, R71, R159): with no further command, the value now in `T[c]` reaches pin c:
within 2 to 16 steps (at most 11 ticks and the `CARRIER_START`s between them) a `CARRIER_START` steers Pc with it.
The bound in steps is the model's form (log entry 4). -/
def Obligations.CommandReachesThePin : Prop :=
  ∀ (s : State) (c : Channel), Safe s → s.sched = [] →
    ∃ n t, 2 ≤ n ∧ n ≤ 16 ∧ steps n s = .next t ∧ t.tickDue = true ∧ t.steerAct = onehot c ∧
      t.dutyAct = s.targetDuty[c] ∧ t.targetDuty = s.targetDuty

/-- R40 (the spec derives it from R33, R38, R39, R12, R84): wherever a tick's operation falls between two accesses of a
command, the result is that of the tick before the whole command or of the tick after it; and with no tick between
them the accesses are the whole command. The list of accesses, with its last access `finish`, is the model's reading
(DEDUCED, log entry 12). -/
def Obligations.CommandMayBeTakenAsAtomic : Prop :=
  (∀ (s : State) (b : Symbol) (v : Duty),
    wholeCommand b s = .next (runAccesses (commandAccesses b s.sel) ⟨s, v⟩).state) ∧
  (∀ (s : State) (b : Symbol) (v : Duty) (x : Selector) (before after : List Access) (mid : State),
    s.params.Legal → s.InBounds → commandAccesses b s.sel = before ++ after →
    exec (decode (.selector x)) (runAccesses before ⟨s, v⟩).state = .next mid →
    ∃ t, t = (runAccesses after ⟨mid, (runAccesses before ⟨s, v⟩).held⟩).state ∧
      ((∃ u, exec (decode (.selector x)) s = .next u ∧ wholeCommand b u = .next t) ∨
        (∃ u, wholeCommand b s = .next u ∧ exec (decode (.selector x)) u = .next t)))

/-- R147 (a halted run is out of the spec's scope, R4; log entry 7): with the tick source halted the scheduler's state
stays as it is at every step, and with no command the carrier goes on and settles after one period. -/
def Obligations.HaltedRunLeavesTheScheduler : Prop :=
  (∀ s t : State, s.halted = true → s.tickDue = false →
    (∀ op es, s.sched ≠ .port op :: es) → step s = .next t →
    t.tick = s.tick ∧ t.phase = s.phase ∧ t.pend = s.pend ∧ t.steerShadow = s.steerShadow ∧
      t.dutyShadow = s.dutyShadow ∧ t.halted = true) ∧
  (∀ s : State, s.halted = true → s.tickDue = false → s.sched = [] →
    step s = .next (carrierStart s) ∧ step (carrierStart s) = .next (carrierStart s))

/-- R133 (D21, log entry 7): the event of a timing violation ends the run in the fault of that name. -/
def Obligations.TimingViolationIsAFault : Prop :=
  ∀ (s : State) (es : List Event), s.tickDue = false → s.sched = .timingViolation :: es →
    step s = .fault .timingViolation
end

