-- ==== Sys2Proof/Laws/Config.lean ====
section
/-! SUPPORT. The open parameters obey the constraints of spec 00_scope.md R6, whatever the free constants are. -/

namespace Sys2Proof.Config

theorem lesser_le_left (a b : Duty) : lesser a b ≤ a := by
  unfold lesser; split <;> bv_omega

theorem lesser_le_right (a b : Duty) : lesser a b ≤ b := by
  unfold lesser; split <;> bv_omega

theorem le_greater_left (a b : Duty) : a ≤ greater a b := by
  unfold greater; split <;> bv_omega

theorem le_greater_right (a b : Duty) : b ≤ greater a b := by
  unfold greater; split <;> bv_omega

theorem minDuty_le_initDuty (c : Channel) : minDuty c ≤ initDuty c := by
  unfold minDuty initDuty
  split
  · decide
  · generalize openDuty c 0 = x, openDuty c 1 = y, openDuty c 2 = z
    unfold lesser greater
    split_ifs <;> bv_omega

theorem initDuty_le_maxDuty (c : Channel) : initDuty c ≤ maxDuty c := by
  unfold maxDuty initDuty
  split
  · decide
  · generalize openDuty c 0 = x, openDuty c 1 = y, openDuty c 2 = z
    unfold lesser greater
    split_ifs <;> bv_omega

theorem maxDuty_le_periodCounts (c : Channel) : maxDuty c ≤ periodCounts := by
  unfold periodCounts
  have l := le_greater_left
  have r := le_greater_right
  have tail3 := l (maxDuty 2) (maxDuty 3)
  have tail4 := r (maxDuty 2) (maxDuty 3)
  have tail1 := r (maxDuty 1) (greater (maxDuty 2) (maxDuty 3))
  have tail0 := r (maxDuty 0) (greater (maxDuty 1) (greater (maxDuty 2) (maxDuty 3)))
  have outer := r openPeriod (greater (maxDuty 0) (greater (maxDuty 1) (greater (maxDuty 2) (maxDuty 3))))
  match c with
  | 0 => exact BitVec.le_trans (l _ _) outer
  | 1 => exact BitVec.le_trans (BitVec.le_trans (l _ _) tail0) outer
  | 2 => exact BitVec.le_trans (BitVec.le_trans (BitVec.le_trans tail3 tail1) tail0) outer
  | 3 => exact BitVec.le_trans (BitVec.le_trans (BitVec.le_trans tail4 tail1) tail0) outer

end Sys2Proof.Config

namespace Sys2Proof.Machine

/-- This machine's parameters are legal (R6). -/
theorem ofConfig_legal : Params.ofConfig.Legal := by
  intro c
  have low := BitVec.le_trans (Config.minDuty_le_initDuty c) (Config.initDuty_le_maxDuty c)
  have high := Config.maxDuty_le_periodCounts c
  match c with
  | 0 => exact ⟨low, high⟩
  | 1 => exact ⟨low, high⟩
  | 2 => exact ⟨low, high⟩
  | 3 => exact ⟨low, high⟩

end Sys2Proof.Machine
end

