-- ==== Sys2Proof/Laws/State.lean ====
section
/-! SUPPORT. What each update of the state leaves as it was: one lemma per field of the shared operations that write one
thing, true by unfolding. -/

namespace Sys2Proof.Machine

variable (s : State) (c d : Channel) (v : Int) (m : Message) (op : PortOp)

@[simp] theorem dutySet_params : (dutySet c v s).params = s.params := rfl
@[simp] theorem dutySet_tick : (dutySet c v s).tick = s.tick := rfl
@[simp] theorem dutySet_phase : (dutySet c v s).phase = s.phase := rfl
@[simp] theorem dutySet_pend : (dutySet c v s).pend = s.pend := rfl
@[simp] theorem dutySet_sel : (dutySet c v s).sel = s.sel := rfl
@[simp] theorem dutySet_dutyShadow : (dutySet c v s).dutyShadow = s.dutyShadow := rfl
@[simp] theorem dutySet_dutyAct : (dutySet c v s).dutyAct = s.dutyAct := rfl
@[simp] theorem dutySet_steerShadow : (dutySet c v s).steerShadow = s.steerShadow := rfl
@[simp] theorem dutySet_steerAct : (dutySet c v s).steerAct = s.steerAct := rfl
@[simp] theorem dutySet_stale : (dutySet c v s).stale = s.stale := rfl
@[simp] theorem dutySet_feedback : (dutySet c v s).feedback = s.feedback := rfl
@[simp] theorem dutySet_portTrace : (dutySet c v s).portTrace = s.portTrace := rfl
@[simp] theorem dutySet_sched : (dutySet c v s).sched = s.sched := rfl
@[simp] theorem dutySet_tickDue : (dutySet c v s).tickDue = s.tickDue := rfl
@[simp] theorem dutySet_halted : (dutySet c v s).halted = s.halted := rfl

@[simp] theorem appendFeedback_feedback : (appendFeedback m s).feedback = s.feedback ++ [m] := rfl
@[simp] theorem appendFeedback_targetDuty : (appendFeedback m s).targetDuty = s.targetDuty := rfl
@[simp] theorem appendFeedback_params : (appendFeedback m s).params = s.params := rfl
@[simp] theorem appendFeedback_tick : (appendFeedback m s).tick = s.tick := rfl
@[simp] theorem appendFeedback_phase : (appendFeedback m s).phase = s.phase := rfl
@[simp] theorem appendFeedback_pend : (appendFeedback m s).pend = s.pend := rfl
@[simp] theorem appendFeedback_sel : (appendFeedback m s).sel = s.sel := rfl
@[simp] theorem appendFeedback_dutyShadow : (appendFeedback m s).dutyShadow = s.dutyShadow := rfl
@[simp] theorem appendFeedback_dutyAct : (appendFeedback m s).dutyAct = s.dutyAct := rfl
@[simp] theorem appendFeedback_steerShadow : (appendFeedback m s).steerShadow = s.steerShadow := rfl
@[simp] theorem appendFeedback_steerAct : (appendFeedback m s).steerAct = s.steerAct := rfl
@[simp] theorem appendFeedback_stale : (appendFeedback m s).stale = s.stale := rfl
@[simp] theorem appendFeedback_portTrace : (appendFeedback m s).portTrace = s.portTrace := rfl
@[simp] theorem appendFeedback_sched : (appendFeedback m s).sched = s.sched := rfl
@[simp] theorem appendFeedback_tickDue : (appendFeedback m s).tickDue = s.tickDue := rfl
@[simp] theorem appendFeedback_halted : (appendFeedback m s).halted = s.halted := rfl

@[simp] theorem recordPort_portTrace : (recordPort op s).portTrace = s.portTrace ++ [op] := rfl
@[simp] theorem recordPort_targetDuty : (recordPort op s).targetDuty = s.targetDuty := rfl
@[simp] theorem recordPort_params : (recordPort op s).params = s.params := rfl
@[simp] theorem recordPort_tick : (recordPort op s).tick = s.tick := rfl
@[simp] theorem recordPort_phase : (recordPort op s).phase = s.phase := rfl
@[simp] theorem recordPort_pend : (recordPort op s).pend = s.pend := rfl
@[simp] theorem recordPort_sel : (recordPort op s).sel = s.sel := rfl
@[simp] theorem recordPort_dutyShadow : (recordPort op s).dutyShadow = s.dutyShadow := rfl
@[simp] theorem recordPort_dutyAct : (recordPort op s).dutyAct = s.dutyAct := rfl
@[simp] theorem recordPort_steerShadow : (recordPort op s).steerShadow = s.steerShadow := rfl
@[simp] theorem recordPort_steerAct : (recordPort op s).steerAct = s.steerAct := rfl
@[simp] theorem recordPort_stale : (recordPort op s).stale = s.stale := rfl
@[simp] theorem recordPort_feedback : (recordPort op s).feedback = s.feedback := rfl
@[simp] theorem recordPort_sched : (recordPort op s).sched = s.sched := rfl
@[simp] theorem recordPort_tickDue : (recordPort op s).tickDue = s.tickDue := rfl
@[simp] theorem recordPort_halted : (recordPort op s).halted = s.halted := rfl

@[simp] theorem carrierStart_targetDuty : (carrierStart s).targetDuty = s.targetDuty := rfl
@[simp] theorem carrierStart_params : (carrierStart s).params = s.params := rfl
@[simp] theorem carrierStart_tick : (carrierStart s).tick = s.tick := rfl
@[simp] theorem carrierStart_phase : (carrierStart s).phase = s.phase := rfl
@[simp] theorem carrierStart_pend : (carrierStart s).pend = s.pend := rfl
@[simp] theorem carrierStart_sel : (carrierStart s).sel = s.sel := rfl
@[simp] theorem carrierStart_dutyShadow : (carrierStart s).dutyShadow = s.dutyShadow := rfl
@[simp] theorem carrierStart_dutyAct : (carrierStart s).dutyAct = s.dutyShadow := rfl
@[simp] theorem carrierStart_steerShadow : (carrierStart s).steerShadow = s.steerShadow := rfl
@[simp] theorem carrierStart_steerAct : (carrierStart s).steerAct = s.steerShadow := rfl
@[simp] theorem carrierStart_feedback : (carrierStart s).feedback = s.feedback := rfl
@[simp] theorem carrierStart_portTrace : (carrierStart s).portTrace = s.portTrace := rfl
@[simp] theorem carrierStart_sched : (carrierStart s).sched = s.sched := rfl
@[simp] theorem carrierStart_tickDue : (carrierStart s).tickDue = s.tickDue := rfl
@[simp] theorem carrierStart_halted : (carrierStart s).halted = s.halted := rfl

/-- `enterInterrupt` consumes the interrupt and changes nothing else. -/
theorem enterInterrupt_eq : enterInterrupt s = { s with tickDue := false } := rfl

/-- The tick count, its successor and the parity depend on `tick` alone. -/
theorem oddTick_congr {s t : State} (h : s.tick = t.tick) : oddTick s = oddTick t := by
  simp [oddTick, incrementedTick, h]

theorem tickAfter_congr {s t : State} (h : s.tick = t.tick) : tickAfter s = tickAfter t := by
  simp [tickAfter, incrementedTick, h]

end Sys2Proof.Machine
end

