-- ==== Sys2Proof/Laws/Ops.lean ====
section
/-! SUPPORT. One specification lemma per shared operation: what it can do, said once. -/

namespace Sys2Proof.Machine

/-! ### The Duty Store -/

/-- With the bounds in order, `clamp` is the value cut off at the bounds. -/
theorem clamp_eq_min_max {lo hi : Int} (v : Int) (h : lo ≤ hi) : clamp lo hi v = min (max v lo) hi := by
  unfold clamp
  rw [if_neg (by omega)]
  split <;> [skip; split] <;> omega

theorem clamp_of_mem {lo hi v : Int} (hl : lo ≤ v) (hh : v ≤ hi) : clamp lo hi v = v := by
  rw [clamp_eq_min_max v (by omega)]; omega

theorem le_clamp {lo hi : Int} (v : Int) (h : lo ≤ hi) : lo ≤ clamp lo hi v := by
  rw [clamp_eq_min_max v h]; omega

theorem clamp_le {lo hi : Int} (v : Int) (h : lo ≤ hi) : clamp lo hi v ≤ hi := by
  rw [clamp_eq_min_max v h]; omega

theorem lowerBound_le_upperBound {s : State} (h : s.params.Legal) (c : Channel) : lowerBound c s ≤ upperBound c s := by
  have := (h c).1
  unfold lowerBound upperBound
  exact_mod_cast this

theorem upperBound_lt (c : Channel) (s : State) : upperBound c s < 65536 := by
  have : (s.params.maxDuty[c]).toNat < 65536 := (s.params.maxDuty[c]).isLt
  unfold upperBound; omega

theorem lowerBound_nonneg (c : Channel) (s : State) : 0 ≤ lowerBound c s := by
  unfold lowerBound; omega

/-- A read after a write: the channel written reads the stored word, every other channel as before. -/
theorem dutyGet_dutySet (c d : Channel) (v : Int) (s : State) :
    dutyGet d (dutySet c v s) =
      if c = d then BitVec.ofInt 16 (clamp (lowerBound c s) (upperBound c s) v) else dutyGet d s := by
  simp [dutyGet, dutySet, Vector.getElem_set, Fin.ext_iff]

theorem toNat_ofInt_duty {v : Int} (h0 : 0 ≤ v) (h1 : v < 65536) : ((BitVec.ofInt 16 v).toNat : Int) = v := by
  rw [BitVec.toNat_ofInt]
  omega

/-- `set(c, v)` stores the clamped value without truncation (R81). -/
theorem dutySet_stores {s : State} (h : s.params.Legal) (c : Channel) (v : Int) :
    ((dutyGet c (dutySet c v s)).toNat : Int) = clamp (lowerBound c s) (upperBound c s) v := by
  have le := lowerBound_le_upperBound h c
  rw [dutyGet_dutySet, if_pos rfl]
  exact toNat_ofInt_duty (le_trans (lowerBound_nonneg c s) (le_clamp v le))
    (lt_of_le_of_lt (clamp_le v le) (upperBound_lt c s))

theorem dutySet_of_eq {s : State} {c : Channel} {v : Int}
    (h : BitVec.ofInt 16 (clamp (lowerBound c s) (upperBound c s) v) = dutyGet c s) : dutySet c v s = s := by
  unfold dutySet
  rw [h]
  simp [dutyGet]

/-- A channel within its bounds is unchanged by the re-clamp (R84). -/
theorem revalidateChannel_of_mem {s : State} {c : Channel}
    (h : s.params.minDuty[c] ≤ s.targetDuty[c] ∧ s.targetDuty[c] ≤ s.params.maxDuty[c]) :
    revalidateChannel c s = s := by
  apply dutySet_of_eq
  rw [clamp_of_mem (by unfold lowerBound dutyGet; exact_mod_cast h.1) (by unfold upperBound dutyGet; exact_mod_cast h.2)]
  apply BitVec.eq_of_toNat_eq
  have := toNat_ofInt_duty (v := ((dutyGet c s).toNat : Int)) (by omega) (by have := (dutyGet c s).isLt; omega)
  exact_mod_cast this

theorem dutyGet_bounds_after_set {s : State} (h : s.params.Legal) (c : Channel) (v : Int) :
    s.params.minDuty[c] ≤ dutyGet c (dutySet c v s) ∧ dutyGet c (dutySet c v s) ≤ s.params.maxDuty[c] := by
  have le := lowerBound_le_upperBound h c
  have stored := dutySet_stores h c v
  have lo := le_clamp v le
  have hi := clamp_le v le
  rw [← stored] at lo hi
  unfold lowerBound at lo
  unfold upperBound at hi
  exact ⟨by exact_mod_cast lo, by exact_mod_cast hi⟩

theorem dutyGet_revalidateChannel {s : State} (h : s.params.Legal) (c d : Channel) :
    ((dutyGet d (revalidateChannel c s)).toNat : Int) =
      if c = d then clamp (lowerBound d s) (upperBound d s) (dutyGet d s).toNat else (dutyGet d s).toNat := by
  by_cases e : c = d
  · subst e; rw [if_pos rfl]; exact dutySet_stores h c _
  · rw [if_neg e, revalidateChannel, dutyGet_dutySet, if_neg e]

/-- `revalidate` leaves every channel at its own clamp (R84). -/
theorem dutyGet_revalidate {s : State} (h : s.params.Legal) (c : Channel) :
    ((dutyGet c (revalidate s)).toNat : Int) = clamp (lowerBound c s) (upperBound c s) (dutyGet c s).toNat := by
  have low : ∀ c d (u : State), lowerBound d (revalidateChannel c u) = lowerBound d u := fun _ _ _ => rfl
  have high : ∀ c d (u : State), upperBound d (revalidateChannel c u) = upperBound d u := fun _ _ _ => rfl
  unfold revalidate
  rw [dutyGet_revalidateChannel (s := revalidateChannel 2 (revalidateChannel 1 (revalidateChannel 0 s))) h,
    dutyGet_revalidateChannel (s := revalidateChannel 1 (revalidateChannel 0 s)) h,
    dutyGet_revalidateChannel (s := revalidateChannel 0 s) h, dutyGet_revalidateChannel h]
  simp only [low, high]
  match c with
  | 0 => simp
  | 1 => simp
  | 2 => simp
  | 3 => simp

/-- Within the bounds `revalidate` does nothing. -/
theorem revalidate_of_inBounds {s : State} (h : s.InBounds) : revalidate s = s := by
  unfold revalidate
  rw [revalidateChannel_of_mem (h 0), revalidateChannel_of_mem (h 1), revalidateChannel_of_mem (h 2),
    revalidateChannel_of_mem (h 3)]

/-! ### Port operations -/

/-- `onehot k` has bit k and no other. -/
theorem onehot_getLsbD (j k : Fin 4) : (onehot k).getLsbD j.val = decide (j = k) := by
  revert j k; decide

/-- The same in simp's form. -/
@[simp] theorem onehot_getElem (j k : Fin 4) : (onehot k)[j.val] = decide (j = k) := by
  revert j k; decide

/-- Masking with `onehot k` reads bit k. -/
theorem onehot_and_eq_zero {k : Pin} {w : PinWord} : onehot k &&& w = 0 ↔ w.getLsbD k.val = false := by
  revert k w; decide

@[simp] theorem isOneBit_onehot (k : Fin 4) : isOneBit (onehot k) = true := by
  revert k; decide

/-- What `PIN_CLR` does where it does something. -/
theorem clearPin_next {q : PinWord} {s t : State} (h : clearPin q s = .next t) :
    isOneBit q = true ∧ q &&& s.steerAct = 0 ∧
      t = recordPort (.pinClr q) { s with stale := s.stale &&& ~~~q } := by
  unfold clearPin at h
  split at h
  · cases h
  · split at h
    · cases h
    · rename_i one off
      injection h with h
      exact ⟨by simpa using one, by simpa using off, h.symm⟩

/-- `PIN_CLR` of one pin that is not steered completes. -/
theorem clearPin_onehot {k : Pin} {s : State} (off : s.steerAct.getLsbD k.val = false) :
    clearPin (onehot k) s = .next (recordPort (.pinClr (onehot k)) { s with stale := s.stale &&& ~~~(onehot k) }) := by
  have zero : ¬(onehot k &&& s.steerAct ≠ 0) := by simpa using onehot_and_eq_zero.2 off
  unfold clearPin
  rw [if_neg (by simp), if_neg zero]

end Sys2Proof.Machine
end

