-- ==== Sys2Proof/Laws/PerInstr.lean ====
section
/-! SUPPORT. The per-instruction family `EncodedWidth`: an operation's word fits its format, so the decoder takes it as a
number and refuses none of its bits. -/

namespace Sys2Proof.Laws.EncodedWidth

/-- The word of i, as a number, is a word of its format and decodes as the word itself does. -/
def Statement (i : Instr) : Prop :=
  (encode i).bits < 2 ^ (encode i).format.width ∧
    decodeNat (encode i).format (encode i).bits = .ok (decode (encode i))

/-- Every word fits its format. -/
theorem bits_lt (r : RawWord) : r.bits < 2 ^ r.format.width := by
  cases r <;> exact BitVec.isLt _

/-- Every word is read back from its number. -/
theorem ofNat_bits (r : RawWord) : RawWord.ofNat r.format r.bits = .ok r := by
  unfold RawWord.ofNat
  rw [if_pos (bits_lt r)]
  cases r <;> simp [RawWord.format, RawWord.bits]

theorem word_of_bits (r : RawWord) :
    r.bits < 2 ^ r.format.width ∧ decodeNat r.format r.bits = .ok (decode r) :=
  ⟨bits_lt r, by simp [decodeNat, ofNat_bits]⟩

theorem sel0 : Statement .sel0 := word_of_bits _
theorem sel2 : Statement .sel2 := word_of_bits _
theorem sel1 : Statement .sel1 := word_of_bits _
theorem sel3 : Statement .sel3 := word_of_bits _
theorem inc : Statement .inc := word_of_bits _
theorem dec : Statement .dec := word_of_bits _
theorem bad (sym : Symbol) : Statement (.bad sym) := word_of_bits _
theorem tMid (p : PhaseCode) : Statement (.tMid p) := word_of_bits _
theorem tAdv0 : Statement .tAdv0 := word_of_bits _
theorem tAdv1 : Statement .tAdv1 := word_of_bits _
theorem tAdv2 : Statement .tAdv2 := word_of_bits _
theorem tAdv3 : Statement .tAdv3 := word_of_bits _
theorem tWrap : Statement .tWrap := word_of_bits _
theorem tRsvd5 : Statement .tRsvd5 := word_of_bits _
theorem tRsvd6 : Statement .tRsvd6 := word_of_bits _
theorem tRsvd7 : Statement .tRsvd7 := word_of_bits _
theorem dutyWr (v : Duty) : Statement (.dutyWr v) := word_of_bits _
theorem steerWr (w : PinWord) : Statement (.steerWr w) := word_of_bits _
theorem pinClr (q : PinWord) : Statement (.pinClr q) := word_of_bits _

end Sys2Proof.Laws.EncodedWidth
end

