-- ==== Sys2Proof/Laws/Step.lean ====
section
/-! SUPPORT. What a step can do, said once: which agents can have moved (`StepCase`), what a sequencer operation can have
done (`TickCase`), what a command can have done (`CommandCase`). -/

namespace Sys2Proof.Machine

/-- `t1[3:0]` is `tick + 1` in 4 bits. -/
@[simp] theorem tickAfter_eq (s : State) : tickAfter s = s.tick + 1 := by
  unfold tickAfter incrementedTick
  generalize s.tick = t
  revert t; decide

/-- The incremented tick is odd where `tick` is even. -/
theorem oddTick_eq (s : State) : oddTick s = !s.tick.getLsbD 0 := by
  unfold oddTick incrementedTick
  generalize s.tick = t
  revert t; decide

/-- The selector, by the parity of `tick`. -/
theorem selector_eq (s : State) : selector s = BitVec.ofBool (!s.tick.getLsbD 0) ++ s.phase := by
  unfold selector; rw [oddTick_eq]

/-! ### The environment -/

/-- The events left when a tick arrives, if the next event brings one. -/
def afterTick : List Event → Option (List Event)
  | [] => some []
  | .tick :: es => some es
  | .tickAndSymbol b :: es => some (.symbol b :: es)
  | _ => none

/-- Everything a step that answers a next state can have been. -/
inductive StepCase (s t : State) : Prop where
  | due (due : s.tickDue = true) (run : exec (decode (.selector (selector s))) { s with tickDue := false } = .next t)
  | tick (es : List Event) (idle : s.tickDue = false) (live : s.halted = false) (even : oddTick s = false)
      (rest : afterTick s.sched = some es)
      (run : exec (decode (.selector (selector s))) { s with tickDue := false, sched := es } = .next t)
  | latch (es : List Event) (idle : s.tickDue = false) (live : s.halted = false) (odd : oddTick s = true)
      (rest : afterTick s.sched = some es) (eq : t = { carrierStart s with tickDue := true, sched := es })
  | command (b : Symbol) (es : List Event) (idle : s.tickDue = false) (event : s.sched = .symbol b :: es)
      (run : exec (decode (.symbol b)) (revalidate { s with sched := es }) = .next t)
  | port (op : PortOp) (es : List Event) (idle : s.tickDue = false) (event : s.sched = .port op :: es)
      (run : exec (decode op.word) { s with sched := es } = .next t)
  | carrier (es : List Event) (idle : s.tickDue = false)
      (event : s.sched = .carrier :: es ∨ (s.halted = true ∧ s.sched = [] ∧ es = []))
      (eq : t = { carrierStart s with sched := es })
  | halt (es : List Event) (idle : s.tickDue = false) (event : s.sched = .halt :: es)
      (eq : t = { s with sched := es, halted := true })
  | silent (es : List Event) (idle : s.tickDue = false) (halted : s.halted = true)
      (rest : afterTick s.sched = some es) (eq : t = { s with sched := es })

/-! The turn, case by case. -/

theorem takeTurn_due {s : State} (due : s.tickDue = true) :
    takeTurn s = .run (.selector (selector s)) { s with tickDue := false } := by
  unfold takeTurn
  rw [if_pos due]
  rfl

theorem takeTurn_idle {s : State} (idle : s.tickDue = false) : takeTurn s =
    (match s.sched with
    | [] => if s.halted then .move (carrierStart s) else tickArrives s
    | .tick :: es => tickArrives { s with sched := es }
    | .symbol b :: es => cmdStep b { s with sched := es }
    | .tickAndSymbol b :: es => tickArrives { s with sched := .symbol b :: es }
    | .port op :: es => .run op.word { s with sched := es }
    | .carrier :: es => .move (carrierStart { s with sched := es })
    | .halt :: es => .move { s with sched := es, halted := true }
    | .timingViolation :: _ => .stop .timingViolation) := by
  unfold takeTurn
  cases s.sched with
  | nil => exact if_neg (by simp [idle])
  | cons e es => cases e <;> exact if_neg (by simp [idle])

theorem tickArrives_halted {s : State} (h : s.halted = true) : tickArrives s = .move s := by
  unfold tickArrives
  rw [if_pos h]

theorem tickArrives_odd {s : State} (live : s.halted = false) (odd : oddTick s = true) :
    tickArrives s = .move { carrierStart s with tickDue := true } := by
  unfold tickArrives
  rw [if_neg (by simp [live]), if_pos odd]

theorem tickArrives_even {s : State} (live : s.halted = false) (even : oddTick s = false) :
    tickArrives s = .run (.selector (selector s)) { s with tickDue := false } := by
  unfold tickArrives
  rw [if_neg (by simp [live]), if_neg (by simp [even])]
  rfl

theorem step_of_run {s u : State} {w : RawWord} (h : takeTurn s = .run w u) : step s = exec (decode w) u := by
  unfold step
  rw [h]

theorem step_of_move {s u : State} (h : takeTurn s = .move u) : step s = .next u := by
  unfold step
  rw [h]

/-- An idle machine with a tick source that runs takes the tick that arrives. -/
theorem takeTurn_afterTick {s : State} {es : List Event} (idle : s.tickDue = false) (live : s.halted = false)
    (rest : afterTick s.sched = some es) : takeTurn s = tickArrives { s with sched := es } := by
  rw [takeTurn_idle idle]
  unfold afterTick at rest
  split at rest <;> first | (rename_i event; simp only [event]; injection rest with rest) | cases rest
  · rw [if_neg (by simp [live]), ← rest, ← ‹s.sched = []›]
  · rw [← rest]
  · rw [← rest]

/-- A tick that arrives with `es` left after it. -/
theorem stepCase_of_tickArrives {s t : State} {es : List Event} (idle : s.tickDue = false)
    (rest : afterTick s.sched = some es) (turn : takeTurn s = tickArrives { s with sched := es })
    (h : step s = .next t) : StepCase s t := by
  by_cases halted : s.halted = true
  · rw [step_of_move (turn.trans (tickArrives_halted halted))] at h
    injection h with h
    exact .silent es idle halted rest h.symm
  · replace halted : s.halted = false := by simpa using halted
    by_cases odd : oddTick s = true
    · rw [step_of_move (turn.trans (tickArrives_odd halted odd))] at h
      injection h with h
      exact .latch es idle halted odd rest h.symm
    · replace odd : oddTick s = false := by simpa using odd
      rw [step_of_run (turn.trans (tickArrives_even halted odd))] at h
      exact .tick es idle halted odd rest h

/-- Say once what a step can do. -/
theorem step_cases {s t : State} (h : step s = .next t) : StepCase s t := by
  by_cases due : s.tickDue = true
  · rw [step_of_run (takeTurn_due due)] at h
    exact .due due h
  · replace due : s.tickDue = false := by simpa using due
    have turn := takeTurn_idle due
    match event : s.sched with
    | [] =>
      by_cases halted : s.halted = true
      · rw [event] at turn
        simp only [halted, if_true] at turn
        rw [step_of_move turn] at h
        injection h with h
        have same : carrierStart s = { carrierStart s with sched := ([] : List Event) } := by
          unfold carrierStart; rw [← event]
        exact .carrier [] due (.inr ⟨halted, event, rfl⟩) (h.symm.trans same)
      · exact stepCase_of_tickArrives due (es := []) (by rw [event]; rfl)
          (takeTurn_afterTick due (by simpa using halted) (by rw [event]; rfl)) h
    | .tick :: es => exact stepCase_of_tickArrives due (es := es) (by rw [event]; rfl) (by rw [turn, event]) h
    | .tickAndSymbol b :: es =>
      exact stepCase_of_tickArrives due (es := .symbol b :: es) (by rw [event]; rfl) (by rw [turn, event]) h
    | .symbol b :: es =>
      rw [event] at turn
      exact .command b es due event ((step_of_run turn).symm.trans h)
    | .port op :: es =>
      rw [event] at turn
      exact .port op es due event ((step_of_run turn).symm.trans h)
    | .carrier :: es =>
      rw [event] at turn
      rw [step_of_move turn] at h
      injection h with h
      exact .carrier es due (.inl event) h.symm
    | .halt :: es =>
      rw [event] at turn
      rw [step_of_move turn] at h
      injection h with h
      exact .halt es due event h.symm
    | .timingViolation :: es =>
      rw [event] at turn
      unfold step at h
      rw [turn] at h
      cases h

/-! ### The operations -/

/-- What `T.ADVc` leaves. -/
theorem advance_eq (c : Channel) (left : Option Pin) (s : State) :
    advance c left s = { s with
      tick := s.tick + 1, phase := phaseOf c, dutyShadow := dutyGet c s, steerShadow := onehot c, pend := left,
      portTrace := s.portTrace ++ [.dutyWr (dutyGet c s), .steerWr (onehot c)] } := by
  simp [advance, writeSteer, writeDuty, recordPort, dutyGet]

/-- The pin `T.ADVc` records: that of the channel before c, none for channel 0 (R61). -/
def leftBy (c : Channel) : Option Pin := if c = 0 then none else some (c - 1)

/-- Everything the operation of a selector can have done. -/
inductive TickCase (x : Selector) (s t : State) : Prop where
  | mid (p : PhaseCode) (sel : x = 1#1 ++ p) (pend : s.pend = none) (eq : t = { s with tick := s.tick + 1 })
  | clear (p : PhaseCode) (k : Pin) (sel : x = 1#1 ++ p) (pend : s.pend = some k)
      (off : onehot k &&& s.steerAct = 0)
      (eq : t = { s with
        tick := s.tick + 1, pend := none, stale := s.stale &&& ~~~(onehot k),
        portTrace := s.portTrace ++ [.pinClr (onehot k)] })
  | adv (c : Channel) (sel : x = BitVec.ofNat 4 c.val)
      (eq : t = { s with
        tick := s.tick + 1, phase := phaseOf c, dutyShadow := dutyGet c s, steerShadow := onehot c, pend := leftBy c,
        portTrace := s.portTrace ++ [.dutyWr (dutyGet c s), .steerWr (onehot c)] })
  | wrap (sel : x = 0b0100#4)
      (eq : t = { s with
        tick := 0, phase := phaseBlank, steerShadow := 0, pend := some 3, portTrace := s.portTrace ++ [.steerWr 0] })

/-- A selector decodes by bit 3 and bits 2:0. -/
theorem decodeSelector_mid (p : PhaseCode) : decodeSelector (1#1 ++ p) = .tMid p := by
  revert p; decide

theorem selector_form (x : Selector) :
    (∃ p : PhaseCode, x = 1#1 ++ p) ∨ x = 0#4 ∨ x = 1#4 ∨ x = 2#4 ∨ x = 3#4 ∨ x = 4#4 ∨ x = 5#4 ∨ x = 6#4 ∨ x = 7#4 := by
  revert x; decide

/-- Say once what a sequencer operation can do. -/
theorem tick_cases {x : Selector} {s t : State} (h : exec (decode (.selector x)) s = .next t) : TickCase x s t := by
  rcases selector_form x with ⟨p, rfl⟩ | rfl | rfl | rfl | rfl | rfl | rfl | rfl | rfl
  · rw [decode, decodeSelector_mid] at h
    simp only [exec, execTMid, tickAfter_eq] at h
    split at h
    · rename_i pend
      injection h with h
      exact .mid p rfl pend h.symm
    · rename_i k pend
      split at h
      · rename_i u cleared
        injection h with h
        obtain ⟨-, off, rfl⟩ := clearPin_next cleared
        exact .clear p k rfl pend off h.symm
      · cases h
      · cases h
  · injection h with h; exact .adv 0 rfl (by rw [← h]; exact advance_eq 0 none s)
  · injection h with h; exact .adv 1 rfl (by rw [← h]; exact advance_eq 1 (some 0) s)
  · injection h with h; exact .adv 2 rfl (by rw [← h]; exact advance_eq 2 (some 1) s)
  · injection h with h; exact .adv 3 rfl (by rw [← h]; exact advance_eq 3 (some 2) s)
  · injection h with h; exact .wrap rfl h.symm
  · cases h
  · cases h
  · cases h

/-- Everything a dispatched command can have done. -/
inductive CommandCase (b : Symbol) (s t : State) : Prop where
  | select (c : Channel)
      (op : decode (.symbol b) = .sel0 ∨ decode (.symbol b) = .sel1 ∨ decode (.symbol b) = .sel2 ∨
        decode (.symbol b) = .sel3)
      (eq : t = appendFeedback (.ctrl c) { s with sel := some c })
  | missing (op : decode (.symbol b) = .inc ∨ decode (.symbol b) = .dec) (none : s.sel = none)
      (eq : t = appendFeedback .noSel s)
  | adjust (c : Channel) (d : Int) (op : decode (.symbol b) = .inc ∨ decode (.symbol b) = .dec) (some : s.sel = some c)
      (eq : t = appendFeedback (.adjOk c (dutyGet c (dutyAdjust c d s))) (dutyAdjust c d s))
  | invalid (op : decode (.symbol b) = .bad b) (eq : t = appendFeedback (.invalid b) s)

/-- Every symbol decodes to one of the seven operations. -/
theorem symbol_form (b : Symbol) :
    decode (.symbol b) = .sel0 ∨ decode (.symbol b) = .sel2 ∨ decode (.symbol b) = .sel1 ∨
      decode (.symbol b) = .sel3 ∨ decode (.symbol b) = .inc ∨ decode (.symbol b) = .dec ∨
      decode (.symbol b) = .bad b := by
  change decodeSymbol b = _ ∨ decodeSymbol b = _ ∨ decodeSymbol b = _ ∨ decodeSymbol b = _ ∨ decodeSymbol b = _ ∨
    decodeSymbol b = _ ∨ decodeSymbol b = _
  unfold decodeSymbol
  split_ifs <;> simp

theorem adjustSelected_case {b : Symbol} {d : Int} {s t : State}
    (op : decode (.symbol b) = .inc ∨ decode (.symbol b) = .dec) (h : adjustSelected d s = t) : CommandCase b s t := by
  unfold adjustSelected at h
  split at h
  · exact .missing op ‹_› h.symm
  · exact .adjust _ d op ‹_› h.symm

/-- Say once what a dispatched command can do: it always ends in a next state. -/
theorem command_cases (b : Symbol) (s : State) :
    ∃ t, exec (decode (.symbol b)) s = .next t ∧ CommandCase b s t := by
  rcases symbol_form b with h | h | h | h | h | h | h <;> rw [h]
  · exact ⟨_, rfl, .select 0 (by simp [h]) rfl⟩
  · exact ⟨_, rfl, .select 2 (by simp [h]) rfl⟩
  · exact ⟨_, rfl, .select 1 (by simp [h]) rfl⟩
  · exact ⟨_, rfl, .select 3 (by simp [h]) rfl⟩
  · exact ⟨_, rfl, adjustSelected_case (.inl h) rfl⟩
  · exact ⟨_, rfl, adjustSelected_case (.inr h) rfl⟩
  · exact ⟨_, rfl, .invalid h rfl⟩

/-- The case of a command that answered a next state. -/
theorem command_of_next {b : Symbol} {s t : State} (h : exec (decode (.symbol b)) s = .next t) : CommandCase b s t := by
  obtain ⟨u, hu, c⟩ := command_cases b s
  rw [hu] at h
  injection h with h
  exact h ▸ c

/-- A command leaves alone what the scheduler and the collaborator own, and the events. -/
theorem CommandCase.frame {b : Symbol} {s t : State} (h : CommandCase b s t) :
    SameScheduler s t ∧ t.sched = s.sched := by
  cases h <;> subst_vars <;> exact ⟨⟨rfl, rfl, rfl, rfl, rfl, rfl, rfl, rfl, rfl, rfl, rfl, rfl⟩, rfl⟩

/-- Everything a port word can have done. -/
inductive PortCase (op : PortOp) (s t : State) : Prop where
  | duty (v : Duty) (word : op = .dutyWr v) (low : v ≤ s.params.periodCounts)
      (eq : t = { s with dutyShadow := v, portTrace := s.portTrace ++ [op] })
  | steer (w : PinWord) (word : op = .steerWr w) (one : isSteerWord w = true)
      (eq : t = { s with steerShadow := w, portTrace := s.portTrace ++ [op] })
  | clear (q : PinWord) (word : op = .pinClr q) (one : isOneBit q = true) (off : q &&& s.steerAct = 0)
      (eq : t = { s with stale := s.stale &&& ~~~q, portTrace := s.portTrace ++ [op] })

/-- Say once what a port word can do. -/
theorem port_cases {op : PortOp} {s t : State} (h : exec (decode op.word) s = .next t) : PortCase op s t := by
  cases op with
  | dutyWr v =>
    change execDutyWr v s = _ at h
    unfold execDutyWr at h
    split at h
    · cases h
    · rename_i low
      injection h with h
      exact .duty v rfl (by simpa using low) h.symm
  | steerWr w =>
    change execSteerWr w s = _ at h
    unfold execSteerWr at h
    split at h
    · injection h with h
      exact .steer w rfl ‹_› h.symm
    · cases h
  | pinClr q =>
    obtain ⟨one, off, eq⟩ := clearPin_next (show clearPin q s = _ from h)
    exact .clear q rfl one off eq

end Sys2Proof.Machine
end

