-- ==== Sys2Proof/Tests/Slice0.lean ====
section
/-! SUPPORT. Tests. Every expected result is the spec's: the words of 30_encoding.md, the examples and vectors of
95_test_vectors.md (their numbers are named). The second half holds, for each statement with hypotheses, states and
operands that meet them. -/

namespace Sys2Proof.Tests

open Sys2Proof Sys2Proof.Machine

/-! ### Helpers -/

/-- Configuration TC1 of 95_test_vectors.md after `RESET`; the two unspecified duty values are drawn as 0 here. -/
def tc1 : State :=
  State.resetWith ⟨#v[142, 100, 200, 150], #v[592, 500, 600, 450], 1000⟩ #v[312, 300, 400, 250] 0 0

/-- Configuration TC2 of 95_test_vectors.md, the extremes of the 16-bit range. -/
def tc2 : State :=
  State.resetWith ⟨#v[142, 0, 0, 65535], #v[592, 65535, 5, 65535], 65535⟩ #v[312, 65530, 5, 65535] 0 0

/-- TC1 at a position of the round. -/
def tc1At (tick : TickCount) (phase : PhaseCode) (pend : Option Pin) : State :=
  { tc1 with tick := tick, phase := phase, pend := pend }

/-- The collaborator's columns of 95_test_vectors.md section 2.6. -/
def withPins (shadow act : PinWord) (dutyShadow dutyAct : Duty) (stale : PinWord) (s : State) : State :=
  { s with steerShadow := shadow, steerAct := act, dutyShadow := dutyShadow, dutyAct := dutyAct, stale := stale }

/-- The step answered a next state, and p holds of it. -/
def nextIs (r : Result) (p : State → Bool) : Bool :=
  match r with
  | .next t => p t
  | .fault _ => false
  | .refused _ => false

/-- The step was refused, with this reason. -/
def refusedWith (r : Result) (why : Refusal) : Bool :=
  match r with
  | .next _ => false
  | .fault _ => false
  | .refused q => decide (q = why)

/-- `(tick, phase, pend)`. -/
def position (s : State) : TickCount × PhaseCode × Option Pin := (s.tick, s.phase, s.pend)

/-- The levels of P3, P2, P1, P0. -/
def levels (s : State) : Level × Level × Level × Level := (pinLevel 3 s, pinLevel 2 s, pinLevel 1 s, pinLevel 0 s)

/-! ### WellFormed: the one check, `BAD` of a symbol with a row of its own -/

theorem test_bad_of_named_symbol_is_ill_formed :
    Instr.wf (.bad 0x31#8) = false ∧ Instr.wf (.bad 0x32#8) = false ∧ Instr.wf (.bad 0x33#8) = false ∧
      Instr.wf (.bad 0x34#8) = false ∧ Instr.wf (.bad 0x61#8) = false ∧ Instr.wf (.bad 0x64#8) = false := by decide

theorem test_bad_of_other_symbol_is_well_formed :
    Instr.wf (.bad 0x37#8) = true ∧ Instr.wf (.bad 0x41#8) = true ∧ Instr.wf (.bad 0x00#8) = true := by decide

/-! ### Decode: words written out from the encodings (R46, R48, R50 to R52; sections 2.1 and 2.2) -/

theorem test_decode_selects :
    decode (.symbol 0b00110001#8) = .sel0 ∧ decode (.symbol 0b00110010#8) = .sel2 ∧
      decode (.symbol 0b00110011#8) = .sel1 ∧ decode (.symbol 0b00110100#8) = .sel3 := by decide

theorem test_decode_adjusts :
    decode (.symbol 0b01100001#8) = .inc ∧ decode (.symbol 0b01100100#8) = .dec := by decide

theorem test_decode_bad :
    decode (.symbol 0b00110101#8) = .bad 0x35#8 ∧ decode (.symbol 0b10110001#8) = .bad 0xB1#8 ∧
      decode (.symbol 0b01000001#8) = .bad 0x41#8 ∧ decode (.symbol 0b00001101#8) = .bad 0x0D#8 := by decide

theorem test_decode_mid :
    decode (.selector 0b1000#4) = .tMid 0b000#3 ∧ decode (.selector 0b1100#4) = .tMid 0b100#3 ∧
      decode (.selector 0b1111#4) = .tMid 0b111#3 := by decide

theorem test_decode_advance_and_wrap :
    decode (.selector 0b0000#4) = .tAdv0 ∧ decode (.selector 0b0001#4) = .tAdv1 ∧
      decode (.selector 0b0010#4) = .tAdv2 ∧ decode (.selector 0b0011#4) = .tAdv3 ∧
      decode (.selector 0b0100#4) = .tWrap := by decide

theorem test_decode_reserved :
    decode (.selector 0b0101#4) = .tRsvd5 ∧ decode (.selector 0b0110#4) = .tRsvd6 ∧
      decode (.selector 0b0111#4) = .tRsvd7 := by decide

theorem test_decode_ports :
    decode (.duty 0b0000000100111000#16) = .dutyWr 312#16 ∧ decode (.steer 0b0010#4) = .steerWr 0b0010#4 ∧
      decode (.clear 0b1000#4) = .pinClr 0b1000#4 := by decide

/-- A number too wide for its format is no word. -/
theorem test_decode_too_wide :
    decodeNat .symbol 256 = .error (.tooWide .symbol) ∧ decodeNat .selector 16 = .error (.tooWide .selector) ∧
      decodeNat .dutyPort 65536 = .error (.tooWide .dutyPort) ∧
      decodeNat .steerPort 16 = .error (.tooWide .steerPort) ∧
      decodeNat .clearPort 16 = .error (.tooWide .clearPort) := ⟨rfl, rfl, rfl, rfl, rfl⟩

theorem test_encode :
    encode .sel1 = .symbol 0b00110011#8 ∧ encode (.tMid 0b010#3) = .selector 0b1010#4 ∧
      encode .tWrap = .selector 0b0100#4 ∧ encode (.dutyWr 5) = .duty 5#16 := by decide

/-- The ten selectors of the round, from the states of section 2.2. -/
theorem test_selectors_of_the_round :
    selector (tc1At 0 0b000 none) = 0b1000#4 ∧ selector (tc1At 1 0b000 none) = 0b0000#4 ∧
      selector (tc1At 4 0b010 (some 0)) = 0b1010#4 ∧ selector (tc1At 9 0b100 none) = 0b0100#4 := by decide

/-! ### Sequencer (section 2.3) -/

theorem test_Q1_mid_nothing_pending :
    nextIs (exec (.tMid 0b000) tc1) (fun t => position t = (1, 0b000, none) ∧ t.portTrace = []) = true := by decide

theorem test_Q2_mid_clears_P3 :
    nextIs (exec (.tMid 0b000) (tc1At 0 0b000 (some 3)))
      (fun t => position t = (1, 0b000, none) ∧ t.portTrace = [.pinClr 0b1000]) = true := by decide

theorem test_Q3_adv0 :
    nextIs (exec .tAdv0 (tc1At 1 0b000 none))
      (fun t => position t = (2, 0b001, none) ∧ t.portTrace = [.dutyWr 312, .steerWr 0b0001]) = true := by decide

theorem test_Q5_adv1 :
    nextIs (exec .tAdv1 (tc1At 3 0b001 none))
      (fun t => position t = (4, 0b010, some 0) ∧ t.portTrace = [.dutyWr 300, .steerWr 0b0010]) = true := by decide

/-- Q15: `pend` is overwritten, the clear of P2 is lost. -/
theorem test_Q15_adv1_overwrites_pend :
    nextIs (exec .tAdv1 (tc1At 3 0b001 (some 2)))
      (fun t => position t = (4, 0b010, some 0) ∧ t.portTrace = [.dutyWr 300, .steerWr 0b0010]) = true := by decide

theorem test_Q7_adv2 :
    nextIs (exec .tAdv2 (tc1At 5 0b010 none))
      (fun t => position t = (6, 0b011, some 1) ∧ t.portTrace = [.dutyWr 400, .steerWr 0b0100]) = true := by decide

theorem test_Q9_adv3 :
    nextIs (exec .tAdv3 (tc1At 7 0b011 none))
      (fun t => position t = (8, 0b100, some 2) ∧ t.portTrace = [.dutyWr 250, .steerWr 0b1000]) = true := by decide

/-- Q16: all 16 bits of the operand. -/
theorem test_Q16_adv3_no_truncation :
    nextIs (exec .tAdv3 { tc2 with tick := 7, phase := 0b011 })
      (fun t => position t = (8, 0b100, some 2) ∧ t.portTrace = [.dutyWr 65535, .steerWr 0b1000]) = true := by decide

theorem test_Q11_wrap :
    nextIs (exec .tWrap (tc1At 9 0b100 none))
      (fun t => position t = (0, 0b000, some 3) ∧ t.portTrace = [.steerWr 0b0000]) = true := by decide

/-- Q14: an even tick with phase code 101 is refused. -/
theorem test_Q14_reserved :
    refusedWith (step { tc1At 3 0b101 none with sched := [.tick] }) (.reservedPhase 0b101) = true := by decide

/-! ### Duty Store (section 2.4) -/

/-- The table of `clamp(142, 592, v)`. -/
theorem test_clamp_table :
    clamp 142 592 (-1000000) = 142 ∧ clamp 142 592 141 = 142 ∧ clamp 142 592 142 = 142 ∧ clamp 142 592 143 = 143 ∧
      clamp 142 592 591 = 591 ∧ clamp 142 592 592 = 592 ∧ clamp 142 592 593 = 592 ∧ clamp 142 592 65546 = 592 := by
  decide

/-- V15, V16: no wrap at either end of the 16-bit range. -/
theorem test_V15_V16_adjust_does_not_wrap :
    dutyGet 1 (dutyAdjust 1 10 tc2) = 65535 ∧
      dutyGet 1 (dutyAdjust 1 (-10) { tc2 with targetDuty := #v[312, 5, 5, 65535] }) = 0 := by decide

/-- V17, V18: a range narrower than the step, and an empty one. -/
theorem test_V17_V18_narrow_ranges :
    dutyGet 2 (dutyAdjust 2 10 tc2) = 5 ∧ dutyGet 2 (dutyAdjust 2 (-10) (dutyAdjust 2 10 tc2)) = 0 ∧
      dutyGet 3 (dutySet 3 0 tc2) = 65535 := by decide

/-- V21: the repair of a store out of bounds. -/
theorem test_V21_revalidate_repairs :
    (revalidate { tc1 with targetDuty := #v[700, 50, 400, 9] }).targetDuty = #v[592, 100, 400, 150] := by decide

/-! ### Commands (section 2.5) -/

/-- One command step: what `sel`, the store and the log are after it. -/
def command (b : Symbol) (sel : Option Channel) (store : Vector Duty 4) : State → Bool := fun t =>
  nextIs (step { t with sched := [.symbol b] }) fun u => u.sel = sel ∧ u.targetDuty = store

theorem test_K5_sel0 : command 0x31 (some 0) #v[312, 300, 400, 250] { tc1 with sel := some 3 } = true := by decide

theorem test_K2_symbol_2_is_channel_2 : command 0x32 (some 2) #v[312, 300, 400, 250] tc1 = true := by decide

theorem test_K3_symbol_3_is_channel_1 : command 0x33 (some 1) #v[312, 300, 400, 250] tc1 = true := by decide

theorem test_K4_sel3 : command 0x34 (some 3) #v[312, 300, 400, 250] tc1 = true := by decide

theorem test_K7_inc_without_selection : command 0x61 none #v[312, 300, 400, 250] tc1 = true := by decide

theorem test_K11_inc : command 0x61 (some 2) #v[312, 300, 410, 250] { tc1 with sel := some 2 } = true := by decide

theorem test_K12_dec : command 0x64 (some 1) #v[312, 290, 400, 250] { tc1 with sel := some 1 } = true := by decide

theorem test_K14_dec_at_the_bound :
    command 0x64 (some 0) #v[142, 300, 400, 250]
      { tc1 with sel := some 0, targetDuty := #v[142, 300, 400, 250] } = true := by decide

/-- K21: the step's `revalidate` runs before the unknown symbol is answered. -/
theorem test_K21_bad_after_revalidate :
    command 0x37 none #v[592, 100, 400, 150] { tc1 with targetDuty := #v[700, 50, 400, 9] } = true := by decide

/-- K9, K16, K1: the messages of a step. -/
theorem test_messages :
    nextIs (exec .inc { tc1 with sel := some 0 }) (fun t => t.feedback = [.adjOk 0 322]) = true ∧
      nextIs (exec (.bad 0x37) tc1) (fun t => t.feedback = [.invalid 0x37]) = true ∧
      nextIs (exec .sel0 tc1) (fun t => t.feedback = [.ctrl 0]) = true := by decide

/-- S4: "invalid command: 7", character by character. -/
theorem test_S4_text : (Message.invalid 0x37).text = ascii "invalid command: 7" := by decide

/-! ### Port words, `CARRIER_START`, pins (section 2.6) -/

theorem test_W1_duty :
    nextIs (exec (.dutyWr 312) tc1) (fun t => t.dutyShadow = 312 ∧ t.dutyAct = tc1.dutyAct) = true := by decide

/-- W14 and the word above it: `P_COUNTS` = 1000 is the last legal operand (U5). -/
theorem test_W14_duty_bound :
    nextIs (exec (.dutyWr 1000) tc1) (fun t => t.dutyShadow = 1000) = true ∧
      refusedWith (exec (.dutyWr 1001) tc1) (.dutyAbovePeriod 1001) = true := by decide

theorem test_W4_steer_replaces :
    nextIs (exec (.steerWr 0b0010) (withPins 0b0001 0b0001 300 312 0 tc1))
      (fun t => t.steerShadow = 0b0010 ∧ t.steerAct = 0b0001) = true := by decide

theorem test_W12_steer_several_bits :
    refusedWith (exec (.steerWr 0b0011) tc1) (.steerWordHasSeveralBits 0b0011) = true := by decide

theorem test_W6_clear :
    nextIs (exec (.pinClr 0b0001) (withPins 0b0010 0b0010 300 300 0b0001 tc1))
      (fun t => t.stale = 0 ∧ levels t = (.low, .low, .carrier, .low)) = true := by decide

theorem test_W11_clear_of_the_steered_pin :
    refusedWith (exec (.pinClr 0b0010) (withPins 0b0010 0b0010 300 300 0 tc1)) (.clearOfSteeredPin 0b0010) = true := by
  decide

theorem test_W5_carrier_start :
    nextIs (step { withPins 0b0010 0b0001 300 312 0 tc1 with sched := [.carrier] })
      (fun t => t.steerAct = 0b0010 ∧ t.dutyAct = 300 ∧ t.stale = 0b0001 ∧
        levels t = (.low, .low, .carrier, .unknown)) = true := by decide

theorem test_W7_carrier_start_into_the_blank_slot :
    nextIs (step { withPins 0b0000 0b1000 250 250 0 tc1 with sched := [.carrier] })
      (fun t => t.steerAct = 0 ∧ t.stale = 0b1000 ∧ levels t = (.unknown, .low, .low, .low)) = true := by decide

/-- X3: a tick and a symbol ready together; the tick reads the old value and the symbol is still to come. -/
theorem test_X3_tick_first :
    nextIs (step { tc1At 3 0b001 none with sel := some 1, sched := [.tickAndSymbol 0x64] })
      (fun t => t.portTrace = [.dutyWr 300, .steerWr 0b0010] ∧ t.sched = [.symbol 0x64]) = true := by decide

/-! ### The host's words -/

theorem test_table_words :
    decodeTableWord 8 0x64 = some .dec ∧ decodeTableWord 8 0b0100 = some .tWrap ∧
      decodeTableWord 16 312 = some (.dutyWr 312) ∧ decodeTableWord 8 256 = none := by decide

theorem test_fetch_word_runs_next :
    nextIs (step (State.reset.withFetchWord 8 0x34)) (fun t => t.sel = some 3) = true ∧
      nextIs (step (State.reset.withFetchWord 8 0b0011)) (fun t => position t = (8, 0b100, some 2)) = true ∧
      nextIs (step (State.reset.withFetchWord 8 0b1100)) (fun t => position t = (9, 0b100, none)) = true := by decide

/-! ### Witnesses: states and operands that meet the hypotheses of the statements -/

/-- Step 5 of program P1, between the `CARRIER_START` and its `T.MID`: P1 is steered, P0 stale. -/
def staleWindow : State :=
  { withPins 0b0010 0b0010 300 300 0b0001 (tc1At 4 0b010 (some 0)) with tickDue := true }

/-- Before the `CARRIER_START` of step 5 of program P1. -/
def beforeLatch : State := withPins 0b0010 0b0001 300 312 0 (tc1At 4 0b010 (some 0))

/-- Before step 2c + 2 of program P1, the `T.ADVc` of channel 0 in its first round. -/
def beforeAdv0 : State := tc1At 1 0b000 none

/-- Before step 8 of program P1, the `T.ADV3`. -/
def beforeAdv3 : State := withPins 0b0100 0b0100 400 400 0 (tc1At 7 0b011 none)

/-- After step 10 of program P1, the start of its second round. -/
def secondRound : State := withPins 0b0000 0b1000 250 250 0 (tc1At 0 0b000 (some 3))

theorem tc1_legal : tc1.params.Legal := by decide

theorem tc1_inBounds : tc1.InBounds := by decide

theorem safe_tc1 : Safe tc1 :=
  ⟨by decide, by decide, by decide, by decide, by decide, by decide, by decide, by decide, by decide, by decide, by decide,
    by decide⟩

theorem safe_staleWindow : Safe staleWindow :=
  ⟨by decide, by decide, by decide, by decide, by decide, by decide, by decide, by decide, by decide, by decide, by decide,
    by decide⟩

theorem safe_beforeLatch : Safe beforeLatch :=
  ⟨by decide, by decide, by decide, by decide, by decide, by decide, by decide, by decide, by decide, by decide, by decide,
    by decide⟩

theorem safe_beforeAdv0 : Safe beforeAdv0 :=
  ⟨by decide, by decide, by decide, by decide, by decide, by decide, by decide, by decide, by decide, by decide, by decide,
    by decide⟩

theorem safe_beforeAdv3 : Safe beforeAdv3 :=
  ⟨by decide, by decide, by decide, by decide, by decide, by decide, by decide, by decide, by decide, by decide, by decide,
    by decide⟩

theorem safe_secondRound : Safe secondRound :=
  ⟨by decide, by decide, by decide, by decide, by decide, by decide, by decide, by decide, by decide, by decide, by decide,
    by decide⟩

/-- DecodeAndEncodeAgree: both sides of the equivalence hold, and both fail. -/
theorem witness_DecodeAndEncodeAgree :
    decodeNat .symbol 0x31 = .ok .sel0 ∧ Instr.wf .sel0 = true ∧ Format.symbol = (encode .sel0).format ∧
      0x31 = (encode .sel0).bits ∧ Instr.wf (.bad 0x31) = false :=
  ⟨rfl, rfl, rfl, rfl, rfl⟩

/-- StepRunsTheDecodedOperation: one state for each clause. -/
theorem witness_StepRunsTheDecodedOperation :
    staleWindow.tickDue = true ∧
    (beforeAdv0.tickDue = false ∧ beforeAdv0.halted = false ∧ beforeAdv0.sched = [] ∧ oddTick beforeAdv0 = false) ∧
    (tc1.tickDue = false ∧ tc1.halted = false ∧ tc1.sched = [] ∧ oddTick tc1 = true) ∧
    (∃ s : State, s.tickDue = false ∧ s.halted = false ∧ s.sched = [.tick] ∧ oddTick s = false) ∧
    (∃ s : State, s.tickDue = false ∧ s.halted = false ∧ s.sched = [.tick] ∧ oddTick s = true) ∧
    (∃ s : State, s.tickDue = false ∧ s.sched = [.symbol 0x61]) ∧
    (∃ s : State, s.tickDue = false ∧ s.sched = [.port (.dutyWr 5)]) := by
  refine ⟨by decide, by decide, by decide, ⟨{ beforeAdv0 with sched := [.tick] }, by decide⟩,
    ⟨{ tc1 with sched := [.tick] }, by decide⟩, ⟨{ tc1 with sched := [.symbol 0x61] }, by decide⟩,
    ⟨{ tc1 with sched := [.port (.dutyWr 5)] }, by decide⟩⟩

/-- TickGoesBeforeASymbolReadyWithIt, TimingViolationIsAFault, and the carrier clause of StepRunsTheDecodedOperation. -/
theorem witness_events (e : Event) : ∃ s : State, s.tickDue = false ∧ s.sched = [e] :=
  ⟨{ tc1 with sched := [e] }, rfl, rfl⟩

/-- PlacedWordRunsNext: a symbol, an odd and an even selector, a duty word. -/
theorem witness_PlacedWordRunsNext :
    decodeTableWord 8 0x61 = some .inc ∧ decodeTableWord 8 0b1001 = some (.tMid 0b001) ∧
      decodeTableWord 8 0b0011 = some .tAdv3 ∧ decodeTableWord 16 65535 = some (.dutyWr 65535) := by decide

/-- MidTickClearsThePendingPin: nothing pending, a released pin, and the steered one. -/
theorem witness_MidTickClearsThePendingPin :
    tc1.pend = none ∧ (staleWindow.pend = some 0 ∧ staleWindow.steerAct.getLsbD (0 : Pin).val = false) ∧
      ∃ s : State, s.pend = some 3 ∧ s.steerAct.getLsbD (3 : Pin).val = true :=
  ⟨rfl, by decide, secondRound, by decide⟩

/-- TicksLeaveTheForegroundAlone, TickEmissionsAreLegal: each operation completes from a legal, in-bounds state. -/
theorem witness_ticks :
    tc1.params.Legal ∧ tc1.InBounds ∧
      ∀ x : Selector, (x = 5 ∨ x = 6 ∨ x = 7) ∨ nextIs (exec (decode (.selector x)) tc1) (fun _ => true) = true := by
  decide

/-- PositionIsKept, PositionMovesRoundTheRing: at the ends of the ring, a step that moves and one that does not. -/
theorem witness_positions :
    (tc1At 9 0b100 none).AtPosition ∧ nextIs (step (tc1At 9 0b100 none)) (fun t => t.tick = 0) = true ∧
      tc1.AtPosition ∧ nextIs (step tc1) (fun t => t.tick = 0) = true ∧
      staleWindow.AtPosition ∧ nextIs (step staleWindow) (fun t => t.tick = 5) = true := by decide

/-- ClampCutsAtInclusiveBounds, ClampingIsIdempotent: each clause, at the values where they meet. -/
theorem witness_clamp :
    (142 : Int) ≤ 592 ∧ (141 : Int) < 142 ∧ (592 : Int) < 593 ∧ ((142 : Int) ≤ 142 ∧ (142 : Int) ≤ 592) ∧
      ((142 : Int) ≤ 592 ∧ (592 : Int) ≤ 592) := by decide

/-- RepeatedAdjustmentsReach: the general clause and the one for channel 0. -/
theorem witness_RepeatedAdjustmentsReach :
    (tc1.params.Legal ∧ tc1.InBounds) ∧
      ∃ s : State, s.params.minDuty[(0 : Channel)] = 142 ∧ s.params.maxDuty[(0 : Channel)] = 592 ∧
        s.targetDuty[(0 : Channel)] = 590 :=
  ⟨⟨tc1_legal, tc1_inBounds⟩, { tc1 with targetDuty := #v[590, 300, 400, 250] }, by decide⟩

/-- SetStoresTheClampedValue, AdjustClampsAfterTheSum, RevalidateClampsEveryChannel, BoundsAreKept, also with a store out
of its bounds. -/
theorem witness_store :
    tc1.params.Legal ∧ tc1.InBounds ∧ tc2.params.Legal ∧ tc2.InBounds ∧
      ¬({ tc1 with targetDuty := #v[700, 50, 400, 9] } : State).InBounds ∧
      nextIs (step tc1) (fun _ => true) = true := by decide

/-- AdjustCommandsMoveTheSelectedChannel: no selection, and each channel selected. -/
theorem witness_selection :
    tc1.sel = none ∧ ∀ c : Channel, ∃ s : State, s.sel = some c ∧ s.params.Legal :=
  ⟨rfl, fun c => ⟨{ tc1 with sel := some c }, rfl, tc1_legal⟩⟩

/-- EveryCommandAnswersOnce, OneConditionACommandAtMost: with every symbol; within bounds. -/
theorem witness_commands (b : Symbol) :
    ∃ s : State, s.tickDue = false ∧ s.sched = [.symbol b] ∧ s.params.Legal ∧ s.InBounds :=
  ⟨{ tc1 with sched := [.symbol b] }, rfl, rfl, tc1_legal, tc1_inBounds⟩

/-- SelectionIsSticky: a step that keeps the selection, one that changes it, one that reports that there is none. -/
theorem witness_SelectionIsSticky :
    nextIs (step { tc1 with sel := some 1, sched := [.symbol 0x37] }) (fun t => t.sel ≠ none) = true ∧
      nextIs (step { tc1 with sched := [.symbol 0x32] }) (fun t => t.sel = some 2) = true ∧
      nextIs (step { tc1 with sched := [.symbol 0x64] }) (fun t => t.feedback = [.noSel]) = true := by decide

/-- DutyWriteGoesToTheShadow at the bound; SteerWriteReplacesTheShadow; PinClearTakesEffectAtOnce. -/
theorem witness_ports :
    ((1000 : Duty) ≤ tc1.params.periodCounts ∧ tc1.params.periodCounts < (1001 : Duty)) ∧
      ((0b1000 : PinWord) = onehot 3 ∧ (0b0011 : PinWord) ≠ 0 ∧ ∀ k : Pin, (0b0011 : PinWord) ≠ onehot k) ∧
      (secondRound.steerAct.getLsbD (0 : Pin).val = false ∧ secondRound.steerAct.getLsbD (3 : Pin).val = true) ∧
      (∀ k : Pin, (0b0000 : PinWord) ≠ onehot k) := by decide

/-- CarrierStartComesWithOddTicks, ArbiterClearsAReleasedPin, StaleWindowHoldsTheReleasedPin. -/
theorem witness_carrier_and_stale_window :
    Safe beforeLatch ∧ nextIs (step beforeLatch) (fun t => t.steerAct ≠ beforeLatch.steerAct) = true ∧
      Safe staleWindow ∧ staleWindow.tickDue = true ∧ staleWindow.pend = some 0 ∧ (1 : Pin) ≠ 0 :=
  ⟨safe_beforeLatch, by decide, safe_staleWindow, rfl, rfl, by decide⟩

/-- PinLevelsByTheTable, CarrierIsHighForTheDuty: the three levels; duties 0, `P_COUNTS` and one between. -/
theorem witness_pins :
    (staleWindow.steerAct.getLsbD (1 : Pin).val = true ∧ staleWindow.dutyAct ≤ staleWindow.params.periodCounts) ∧
      (staleWindow.steerAct.getLsbD (0 : Pin).val = false ∧ staleFlag 0 staleWindow = true) ∧
      (staleWindow.steerAct.getLsbD (3 : Pin).val = false ∧ staleFlag 3 staleWindow = false) ∧
      pinHigh 0 299 1 staleWindow = true ∧ pinHigh 0 300 1 staleWindow = false := by decide

/-- ShownDutyIsTheOneRead: the first and the last channel. -/
theorem witness_ShownDutyIsTheOneRead :
    (Safe beforeAdv0 ∧ beforeAdv0.sched = [] ∧ beforeAdv0.tick.toNat = 2 * (0 : Channel).val + 1) ∧
      (Safe beforeAdv3 ∧ beforeAdv3.sched = [] ∧ beforeAdv3.tick.toNat = 2 * (3 : Channel).val + 1) :=
  ⟨⟨safe_beforeAdv0, rfl, rfl⟩, safe_beforeAdv3, rfl, rfl⟩

/-- AtMostOnePinIsDriven: a safe state with a pin that is not low. -/
theorem witness_AtMostOnePinIsDriven :
    Safe beforeLatch ∧ beforeLatch.tickDue = false ∧ pinLevel 0 beforeLatch ≠ .low :=
  ⟨safe_beforeLatch, rfl, by decide⟩

/-- BlankSlotEmitsNoDuty: a step that stays in the blank slot and one that leaves it. -/
theorem witness_BlankSlotEmitsNoDuty :
    (Safe secondRound ∧ secondRound.phase = phaseBlank ∧
      nextIs (step secondRound) (fun t => t.phase = phaseBlank) = true) ∧
    (Safe beforeAdv0 ∧ beforeAdv0.phase = phaseBlank ∧ nextIs (step beforeAdv0) (fun t => t.phase = phaseOf 0) = true) :=
  ⟨⟨safe_secondRound, rfl, by decide⟩, safe_beforeAdv0, rfl, by decide⟩

/-- EveryStepKeepsSafe, SafeRunsNeverStop, CommandReachesThePin. -/
theorem witness_safe_steps :
    Safe staleWindow ∧ staleWindow.sched = [] ∧ nextIs (step staleWindow) (fun _ => true) = true :=
  ⟨safe_staleWindow, rfl, by decide⟩

/-- RoundEmitsItsTrace, EachPinCarriesOnePulseARound: the first round after `RESET` and a later one. -/
theorem witness_RoundEmitsItsTrace :
    (Safe tc1 ∧ tc1.tick = 0 ∧ tc1.tickDue = false ∧ tc1.sched = [] ∧ tc1.pend = none) ∧
      (Safe secondRound ∧ secondRound.tick = 0 ∧ secondRound.tickDue = false ∧ secondRound.sched = [] ∧
        secondRound.pend = some 3) :=
  ⟨⟨safe_tc1, rfl, rfl, rfl, rfl⟩, safe_secondRound, rfl, rfl, rfl, rfl⟩

/-- CommandsDoNotMoveTheSchedule: two states with other duties, another selection and another log. -/
theorem witness_CommandsDoNotMoveTheSchedule :
    SameSchedule staleWindow
      { staleWindow with targetDuty := #v[142, 100, 200, 150], sel := some 3, feedback := [.noSel], dutyShadow := 7 } :=
  ⟨rfl, rfl, rfl, rfl, rfl, rfl, rfl, rfl, rfl, rfl⟩

/-- CommandMayBeTakenAsAtomic: X5 of 95_test_vectors.md, a tick between the read and the write of `adjust(1, -10)`. -/
theorem witness_CommandMayBeTakenAsAtomic :
    tc1.params.Legal ∧ tc1.InBounds ∧
      commandAccesses 0x64 (some 1) =
        (commandAccesses 0x64 (some 1)).take 9 ++ [.store 1 (-10), .finish 0x64] ∧
      nextIs (exec .tAdv1
        (runAccesses ((commandAccesses 0x64 (some 1)).take 9) ⟨{ tc1At 3 0b001 none with sel := some 1 }, 0⟩).state)
        (fun t => t.portTrace = [.dutyWr 300, .steerWr 0b0010]) = true :=
  ⟨tc1_legal, tc1_inBounds, rfl, by decide⟩

/-- HaltedRunLeavesTheScheduler: a halted state, with nothing to come and with a symbol to come. -/
theorem witness_HaltedRunLeavesTheScheduler :
    (∃ s : State, s.halted = true ∧ s.tickDue = false ∧ s.sched = []) ∧
      ∃ s : State, s.halted = true ∧ s.tickDue = false ∧ (∀ op es, s.sched ≠ .port op :: es) ∧
        nextIs (step s) (fun t => t.sel = some 0) = true :=
  ⟨⟨{ beforeLatch with halted := true }, rfl, rfl, rfl⟩,
    { beforeLatch with halted := true, sched := [.symbol 0x31] }, rfl, rfl, by simp, by decide⟩

end Sys2Proof.Tests
end

/-! PROOFS, 10_state.md: every step keeps the bounds of the Duty Store (R12), moves the position round a ring of ten
(R13, R14), and keeps the invariant `Safe`. -/

namespace Sys2Proof.Machine

/-! ### What each agent's operations leave alone -/

/-- No sequencer operation touches what the foreground owns (R36, R141). -/
theorem TickCase.sameForeground {x : Selector} {s t : State} (h : TickCase x s t) : SameForeground s t := by
  cases h <;> subst_vars <;> exact ⟨rfl, rfl, rfl, rfl⟩

/-- No port word touches what the foreground owns. -/
theorem PortCase.sameForeground {op : PortOp} {s t : State} (h : PortCase op s t) : SameForeground s t := by
  cases h <;> subst_vars <;> exact ⟨rfl, rfl, rfl, rfl⟩

/-- No port word moves the position. -/
theorem PortCase.tick_phase {op : PortOp} {s t : State} (h : PortCase op s t) :
    t.tick = s.tick ∧ t.phase = s.phase := by
  cases h <;> subst_vars <;> exact ⟨rfl, rfl⟩

/-! ### The bounds invariant (R12) -/

/-- Whoever leaves the foreground's state alone keeps the bounds invariant. -/
theorem SameForeground.inBounds {s t : State} (same : SameForeground s t) (bounds : s.InBounds) : t.InBounds := by
  unfold State.InBounds
  rwa [same.params, same.targetDuty]

/-- A `set` of any integer keeps the bounds invariant (R81). -/
theorem dutySet_inBounds {s : State} (legal : s.params.Legal) (bounds : s.InBounds) (c : Channel) (v : Int) :
    (dutySet c v s).InBounds := by
  intro d
  by_cases e : c = d
  · subst e
    exact dutyGet_bounds_after_set legal c v
  · have kept : dutyGet d (dutySet c v s) = dutyGet d s := by rw [dutyGet_dutySet, if_neg e]
    rw [dutySet_params, show (dutySet c v s).targetDuty[d] = s.targetDuty[d] from kept]
    exact bounds d

/-- A dispatched command keeps the bounds invariant. -/
theorem CommandCase.inBounds {b : Symbol} {s t : State} (legal : s.params.Legal) (bounds : s.InBounds)
    (h : CommandCase b s t) : t.InBounds := by
  cases h with
  | select c op eq => subst eq; exact bounds
  | missing op none eq => subst eq; exact bounds
  | adjust c d op some eq => subst eq; exact dutySet_inBounds legal bounds c _
  | invalid op eq => subst eq; exact bounds

/-- The Duty Store after `RESET` is within bounds (R10, R150). -/
theorem reset_inBounds : State.reset.InBounds := by
  intro c
  have low := Config.minDuty_le_initDuty c
  have high := Config.initDuty_le_maxDuty c
  match c with
  | 0 => exact ⟨low, high⟩
  | 1 => exact ⟨low, high⟩
  | 2 => exact ⟨low, high⟩
  | 3 => exact ⟨low, high⟩

/-- Every step leaves the parameters and keeps the bounds invariant. -/
theorem step_keeps_bounds {s t : State} (legal : s.params.Legal) (bounds : s.InBounds) (h : step s = .next t) :
    t.params = s.params ∧ t.InBounds := by
  cases step_cases h with
  | due due run =>
    have same := (tick_cases run).sameForeground
    exact ⟨same.params, same.inBounds bounds⟩
  | tick es idle live even rest run =>
    have same := (tick_cases run).sameForeground
    exact ⟨same.params, same.inBounds bounds⟩
  | port op es idle event run =>
    have same := (port_cases run).sameForeground
    exact ⟨same.params, same.inBounds bounds⟩
  | command b es idle event run =>
    rw [revalidate_of_inBounds (s := { s with sched := es }) bounds] at run
    have done := command_of_next run
    exact ⟨done.frame.1.params, done.inBounds (s := { s with sched := es }) legal bounds⟩
  | latch es idle live odd rest eq => subst eq; exact ⟨rfl, bounds⟩
  | carrier es idle event eq => subst eq; exact ⟨rfl, bounds⟩
  | halt es idle event eq => subst eq; exact ⟨rfl, bounds⟩
  | silent es idle halted rest eq => subst eq; exact ⟨rfl, bounds⟩

/-- Settles O23: `RESET` establishes the bounds, and each agent's move keeps them. -/
theorem boundsAreKept : Obligations.BoundsAreKept :=
  ⟨ofConfig_legal, reset_inBounds, fun _ _ => step_keeps_bounds⟩

/-! ### The ring of ten positions (R13, R14, R69) -/

/-- A selector with bit 3 set was formed at an odd incremented tick (R48). -/
theorem oddTick_of_selector_mid {s : State} {p : PhaseCode} (sel : selector s = 1#1 ++ p) : oddTick s = true := by
  unfold selector at sel
  generalize oddTick s = o, s.phase = q at sel
  revert o p q; decide

/-- At a position `tick` is the phase code over the parity. -/
theorem tick_of_atPosition {s : State} (place : s.AtPosition) : s.tick = s.phase ++ BitVec.ofBool (!oddTick s) := by
  rw [place.1, oddTick_eq]
  generalize s.tick = n
  revert n; decide

/-- At a position the selector of `T.ADVc` is formed at the even tick that ends the sub-period before channel c's. -/
theorem position_of_selector_adv {s : State} (place : s.AtPosition) {c : Channel}
    (sel : selector s = BitVec.ofNat 4 c.val) :
    s.tick = BitVec.ofNat 4 (2 * c.val + 1) ∧ s.phase = BitVec.ofNat 3 c.val ∧ oddTick s = false := by
  have tick := tick_of_atPosition place
  unfold selector at sel
  generalize s.tick = n, oddTick s = o, s.phase = q at sel tick
  subst tick
  revert o c q; decide

/-- At a position the selector of `T.WRAP` is formed at the last place of the ring. -/
theorem position_of_selector_wrap {s : State} (place : s.AtPosition) (sel : selector s = 0b0100#4) :
    s.tick = 9#4 ∧ s.phase = phaseOf 3 ∧ oddTick s = false := by
  have tick := tick_of_atPosition place
  unfold selector at sel
  generalize s.tick = n, oddTick s = o, s.phase = q at sel tick
  subst tick
  revert o q; decide

/-- The last place of the ring has an even incremented tick. -/
theorem tick_ne_nine_of_oddTick {s : State} (odd : oddTick s = true) : s.tick ≠ 9 := by
  intro nine
  rw [oddTick_eq, nine] at odd
  exact absurd odd (by decide)

/-- No `T.ADVc` is at the last place of the ring. -/
theorem tick_before_adv_ne_nine (c : Channel) : BitVec.ofNat 4 (2 * c.val + 1) ≠ 9 := by
  revert c; decide

/-- Channel c's phase follows the one `T.ADVc` is run in. -/
theorem nextPhase_before_adv (c : Channel) : nextPhase (BitVec.ofNat 3 c.val) = phaseOf c := by
  revert c; decide

/-- The operation of the state's own selector moves the position one place round the ring (R14). -/
theorem TickCase.moves_one_place {s t : State} (place : s.AtPosition) (h : TickCase (selector s) s t) :
    t.tick = (if s.tick = 9 then 0 else s.tick + 1) ∧
      t.phase = (if oddTick s then s.phase else nextPhase s.phase) := by
  cases h with
  | mid p sel pend eq =>
    have odd := oddTick_of_selector_mid sel
    rw [if_neg (tick_ne_nine_of_oddTick odd), if_pos odd, eq]
    exact ⟨rfl, rfl⟩
  | clear p k sel pend off eq =>
    have odd := oddTick_of_selector_mid sel
    rw [if_neg (tick_ne_nine_of_oddTick odd), if_pos odd, eq]
    exact ⟨rfl, rfl⟩
  | adv c sel eq =>
    obtain ⟨tick, phase, even⟩ := position_of_selector_adv place sel
    rw [eq, tick, phase, even, if_neg (tick_before_adv_ne_nine c), nextPhase_before_adv]
    exact ⟨rfl, rfl⟩
  | wrap sel eq =>
    obtain ⟨tick, phase, even⟩ := position_of_selector_wrap place sel
    rw [eq, tick, phase, even]
    exact ⟨rfl, rfl⟩

/-- Settles O16: only a `TICK` step moves the position, and it runs the operation of the state's own selector. -/
theorem positionMovesRoundTheRing : Obligations.PositionMovesRoundTheRing := by
  intro s t place h
  cases step_cases h with
  | due due run => exact .inr ((tick_cases run).moves_one_place (s := { s with tickDue := false }) place)
  | tick es idle live even rest run =>
    exact .inr ((tick_cases run).moves_one_place (s := { s with tickDue := false, sched := es }) place)
  | port op es idle event run => exact .inl (port_cases run).tick_phase
  | command b es idle event run =>
    have same := (command_of_next run).frame.1
    exact .inl ⟨same.tick, same.phase⟩
  | latch es idle live odd rest eq => subst eq; exact .inl ⟨rfl, rfl⟩
  | carrier es idle event eq => subst eq; exact .inl ⟨rfl, rfl⟩
  | halt es idle event eq => subst eq; exact .inl ⟨rfl, rfl⟩
  | silent es idle halted rest eq => subst eq; exact .inl ⟨rfl, rfl⟩

/-! ### The invariant `Safe` -/

/-- Settles O2: nothing is steered, pending or due after `RESET`, and the store is within bounds. -/
theorem resetIsSafe : Obligations.ResetIsSafe where
  legal := ofConfig_legal
  bounds := reset_inBounds
  running := rfl
  environment := rfl
  position := ⟨rfl, by decide⟩
  due := nofun
  pending := .inr ⟨rfl, rfl⟩
  steerShadow := rfl
  steerAct := rfl
  stale := rfl
  dutyShadow := fun _ steered => absurd steered (by simp [State.reset, State.resetWith])
  dutyAct := fun _ steered => absurd steered (by simp [State.reset, State.resetWith])

/-- The events left after a tick are the environment's if the listed ones were. -/
theorem afterTick_fromEnvironment {l es : List Event} (env : l.all Event.fromEnvironment = true)
    (rest : afterTick l = some es) : es.all Event.fromEnvironment = true := by
  unfold afterTick at rest
  split at rest
  · cases rest; rfl
  · cases rest; simpa [Event.fromEnvironment] using env
  · cases rest; simpa [Event.fromEnvironment] using env
  · cases rest

/-- Any list of the environment's events may be still to come. -/
theorem Safe.with_sched {s : State} (safe : Safe s) {es : List Event} (env : es.all Event.fromEnvironment = true) :
    Safe { s with sched := es } where
  __ := safe
  environment := env

/-- Whoever leaves the scheduler, the collaborator and the events alone keeps the invariant if the bounds are kept. -/
theorem Safe.of_sameScheduler {s t : State} (safe : Safe s) (same : SameScheduler s t) (sched : t.sched = s.sched)
    (bounds : t.InBounds) : Safe t := by
  obtain ⟨T, params, tick, phase, pend, sel, dutyShadow, dutyAct, steerShadow, steerAct, stale, feedback, portTrace,
    events, tickDue, halted⟩ := t
  obtain ⟨rfl, rfl, rfl, rfl, rfl, rfl, rfl, rfl, rfl, rfl, rfl, rfl⟩ := same
  cases sched
  exact { __ := safe, bounds := bounds }

/-- A command, taken within bounds, keeps the invariant. -/
theorem Safe.of_command {b : Symbol} {s t : State} (safe : Safe s) (done : CommandCase b s t) : Safe t :=
  safe.of_sameScheduler done.frame.1 done.frame.2 (done.inBounds safe.legal safe.bounds)

/-- The pin that loses steering at a `CARRIER_START` is the one in `pend`, never the one just programmed (R70, R116). -/
theorem pinWordOf_pendAt_released (n : TickCount) :
    pinWordOf (pendAt n) &&& ~~~steerOfPhase (n.extractLsb' 1 3) = pinWordOf (pendAt n) := by
  revert n; decide

/-- In a safe state the pending pin is not the one that the phase steers. -/
theorem Safe.pend_released {s : State} (safe : Safe s) :
    pinWordOf s.pend &&& ~~~steerOfPhase s.phase = pinWordOf s.pend := by
  obtain pend | ⟨-, pend⟩ := safe.pending
  · rw [pend, safe.position.1, pinWordOf_pendAt_released]
  · rw [pend]; exact BitVec.zero_and

/-- The `CARRIER_START` of an odd tick keeps the invariant: the pin it releases is the one in `pend`. -/
theorem Safe.of_latch {s : State} (safe : Safe s) (idle : s.tickDue = false) (odd : oddTick s = true) :
    Safe { carrierStart s with tickDue := true } where
  __ := safe
  due := fun _ => odd
  steerAct := safe.steerShadow
  stale := by
    have steered : s.steerAct = pinWordOf s.pend := by simpa [idle, odd] using safe.steerAct
    have clean : s.stale = 0 := by simpa [idle] using safe.stale
    calc s.stale ||| (s.steerAct &&& ~~~s.steerShadow)
        = pinWordOf s.pend &&& ~~~steerOfPhase s.phase := by
          rw [clean, steered, safe.steerShadow]; exact BitVec.zero_or
      _ = pinWordOf s.pend := safe.pend_released
  dutyAct := safe.dutyShadow

/-- The place after that of an odd incremented tick: same phase code, nothing pending, an even tick next (R62, R70). -/
theorem place_after_mid (n : TickCount) (small : n ≤ 9#4) (even : n.getLsbD 0 = false) :
    (n + 1#4).extractLsb' 1 3 = n.extractLsb' 1 3 ∧ n + 1#4 ≤ 9#4 ∧ pendAt (n + 1#4) = none ∧
      (n + 1#4)[0] = true := by
  revert n; decide

/-- What the `T.MID` of a tick that is due leaves keeps the invariant, whatever it emits. -/
theorem Safe.after_mid {s : State} (safe : Safe s) (due : s.tickDue = true) (trace : List PortOp) :
    Safe { s with tickDue := false, tick := s.tick + 1, pend := none, stale := 0, portTrace := trace } := by
  have even : s.tick.getLsbD 0 = false := by simpa [oddTick_eq] using safe.due due
  obtain ⟨code, small, pend, odd⟩ := place_after_mid s.tick safe.position.2 even
  have steered : s.steerAct = steerOfPhase s.phase := by simpa [due] using safe.steerAct
  exact {
    __ := safe
    position := ⟨safe.position.1.trans code.symm, small⟩
    due := nofun
    pending := .inl pend.symm
    steerShadow := safe.steerShadow
    steerAct := by simpa [oddTick_eq, odd] using steered
    stale := rfl }

/-- The tick that is due keeps the invariant: it is a `T.MID`, and the only stale pin is the one it clears (R116). -/
theorem Safe.of_due {s t : State} (safe : Safe s) (due : s.tickDue = true)
    (done : TickCase (selector s) { s with tickDue := false } t) : Safe t := by
  have odd := safe.due due
  have stale : s.stale = pinWordOf s.pend := by simpa [due] using safe.stale
  cases done with
  | mid p sel pend eq =>
    replace pend : s.pend = none := pend
    rw [pend] at stale
    have same : t = { s with tickDue := false, tick := s.tick + 1, pend := none, stale := 0 } := by
      rw [eq, ← pend, ← show s.stale = 0 from stale]
    exact same ▸ safe.after_mid due s.portTrace
  | clear p k sel pend off eq =>
    replace pend : s.pend = some k := pend
    rw [pend] at stale
    have cleared : s.stale &&& ~~~onehot k = 0 := by rw [stale]; exact BitVec.and_not_self _
    rw [eq]
    exact cleared ▸ safe.after_mid due _
  | adv c sel eq => simp [position_of_selector_adv safe.position sel] at odd
  | wrap sel eq => simp [position_of_selector_wrap safe.position sel] at odd

/-- The place after `T.ADVc`: channel c's phase, the pin before c pending, an odd tick next (R61, R70). -/
theorem place_after_adv (c : Channel) :
    phaseOf c = (BitVec.ofNat 4 (2 * c.val + 1) + 1#4).extractLsb' 1 3 ∧
      BitVec.ofNat 4 (2 * c.val + 1) + 1#4 ≤ 9#4 ∧
      leftBy c = pendAt (BitVec.ofNat 4 (2 * c.val + 1) + 1#4) ∧
      (BitVec.ofNat 4 (2 * c.val + 1) + 1#4)[0] = false := by
  revert c; decide

/-- The word `T.ADVc` writes is that of the phase it enters (R74). -/
theorem steerOfPhase_phaseOf (c : Channel) : steerOfPhase (phaseOf c) = onehot c := by
  revert c; decide

/-- The pin `T.ADVc` records is the one that the phase left steers (R61, R116). -/
theorem steerOfPhase_before_adv (c : Channel) : steerOfPhase (BitVec.ofNat 3 c.val) = pinWordOf (leftBy c) := by
  revert c; decide

/-- The pin `T.WRAP` records is the one that `CH3` steers (R67, R116). -/
theorem steerOfPhase_before_wrap : steerOfPhase (phaseOf 3) = pinWordOf (some 3) := by decide

/-- `T.WRAP` goes to the first place of the ring. -/
theorem place_after_wrap : phaseBlank = (0 : TickCount).extractLsb' 1 3 ∧ (0 : TickCount) ≤ 9#4 := by decide

/-- An even tick keeps the invariant: it programmes the next phase and records the pin still steered (R61, R67). -/
theorem Safe.of_even_tick {s t : State} (safe : Safe s) (idle : s.tickDue = false) (even : oddTick s = false)
    (done : TickCase (selector s) s t) : Safe t := by
  have steered : s.steerAct = steerOfPhase s.phase := by simpa [even] using safe.steerAct
  have clean : s.stale = 0 := by simpa [idle] using safe.stale
  cases done with
  | mid p sel pend eq => simp [oddTick_of_selector_mid sel] at even
  | clear p k sel pend off eq => simp [oddTick_of_selector_mid sel] at even
  | adv c sel eq =>
    obtain ⟨tick, phase, -⟩ := position_of_selector_adv safe.position sel
    obtain ⟨code, small, pend, odd⟩ := place_after_adv c
    rw [← tick] at code small pend odd
    rw [phase, steerOfPhase_before_adv] at steered
    subst eq
    exact {
      __ := safe
      position := ⟨code, small⟩
      due := by simp [idle]
      pending := .inl pend
      steerShadow := (steerOfPhase_phaseOf c).symm
      steerAct := by simpa [idle, oddTick_eq, odd] using steered
      stale := by simpa [idle] using clean
      dutyShadow := fun d steers => by
        obtain rfl : d = c := by simpa [onehot_getLsbD] using steers
        exact safe.bounds d }
  | wrap sel eq =>
    obtain ⟨-, phase, -⟩ := position_of_selector_wrap safe.position sel
    rw [phase, steerOfPhase_before_wrap] at steered
    subst eq
    exact {
      __ := safe
      position := place_after_wrap
      due := by simp [idle]
      pending := .inl rfl
      steerShadow := rfl
      steerAct := by simpa [idle, oddTick_eq] using steered
      stale := by simpa [idle] using clean
      dutyShadow := fun d steers => by simp at steers }

/-- Settles O44, by the agent that moves: a tick that is due, an even tick, the `CARRIER_START` of an odd one, or a
command; the environment has no other event. -/
theorem everyStepKeepsSafe : Obligations.EveryStepKeepsSafe := by
  intro s t safe h
  have env := safe.environment
  cases step_cases h with
  | due due run => exact safe.of_due due (tick_cases run)
  | tick es idle live even rest run =>
    have here := safe.with_sched (afterTick_fromEnvironment env rest)
    rw [← idle] at run
    exact here.of_even_tick idle even (tick_cases run)
  | latch es idle live odd rest eq =>
    have here := safe.with_sched (afterTick_fromEnvironment env rest)
    exact eq ▸ here.of_latch idle odd
  | command b es idle event run =>
    rw [event] at env
    have here := safe.with_sched (es := es) (by simpa [Event.fromEnvironment] using env)
    rw [revalidate_of_inBounds here.bounds] at run
    exact here.of_command (command_of_next run)
  | port op es idle event run => simp [event, Event.fromEnvironment] at env
  | carrier es idle event eq =>
    obtain event | ⟨halted, -⟩ := event
    · simp [event, Event.fromEnvironment] at env
    · simp [safe.running] at halted
  | halt es idle event eq => simp [event, Event.fromEnvironment] at env
  | silent es idle halted rest eq => simp [safe.running] at halted

end Sys2Proof.Machine

/-! PROOFS, 20_memory.md: a word that is placed runs next (R43, log entry 5), and a command may be taken as atomic: a
tick between two of its accesses can be moved before it or after it (R40). -/

namespace Sys2Proof.Machine

/-! ### A placed word runs next -/

/-- The state from which the operation of the word r runs once `placeWord` has put it next in s. -/
def placedStart (r : RawWord) (s : State) : State :=
  match r with
  | .symbol _ => revalidate { placeWord r s with sched := s.sched }
  | .selector _ | .duty _ | .steer _ | .clear _ => { placeWord r s with tickDue := false, sched := s.sched }

/-- The parity of `tick` that `placeWord` chooses for a selector. -/
theorem oddTick_placeWord (x : Selector) (s : State) : oddTick (placeWord (.selector x) s) = x.getLsbD 3 := by
  rw [oddTick_eq]
  change (!(x.extractLsb' 0 3 ++ BitVec.ofBool (!x.getLsbD 3)).getLsbD 0) = x.getLsbD 3
  revert x; decide

/-- The position that `placeWord` chooses forms the selector it was given (R48). -/
theorem selector_placeWord (x : Selector) (s : State) : selector (placeWord (.selector x) s) = x := by
  unfold selector
  rw [oddTick_placeWord]
  change BitVec.ofBool (x.getLsbD 3) ++ x.extractLsb' 0 3 = x
  revert x; decide

/-- A tick that arrives at an idle machine where the incremented tick is even runs at once. -/
theorem takeTurn_even_tick {s : State} {es : List Event} (idle : s.tickDue = false) (live : s.halted = false)
    (even : oddTick s = false) (rest : afterTick s.sched = some es) :
    takeTurn s = .run (.selector (selector s)) { s with tickDue := false, sched := es } :=
  (takeTurn_afterTick idle live rest).trans (tickArrives_even (s := { s with sched := es }) live even)

/-- A placed selector is taken by the tick that is due if it is odd, and by the tick listed next if it is even. -/
theorem takeTurn_placeWord_selector (x : Selector) (s : State) :
    takeTurn (placeWord (.selector x) s) = .run (.selector x) (placedStart (.selector x) s) := by
  cases odd : x.getLsbD 3 with
  | true =>
    have kept : (placeWord (.selector x) s).sched = s.sched := if_pos odd
    rw [takeTurn_due odd, selector_placeWord]
    simp [placedStart, kept]
  | false =>
    have listed : (placeWord (.selector x) s).sched = .tick :: s.sched := if_neg (by rw [odd]; decide)
    have live : (placeWord (.selector x) s).halted = false := congrArg (· && s.halted) odd
    have even := (oddTick_placeWord x s).trans odd
    rw [takeTurn_even_tick odd live even (congrArg afterTick listed), selector_placeWord]
    rfl

/-- The next turn runs the word that was placed. -/
theorem takeTurn_placeWord (r : RawWord) (s : State) : takeTurn (placeWord r s) = .run r (placedStart r s) := by
  cases r with
  | selector x => exact takeTurn_placeWord_selector x s
  | symbol b => exact takeTurn_idle rfl
  | duty v => exact takeTurn_idle rfl
  | steer w => exact takeTurn_idle rfl
  | clear q => exact takeTurn_idle rfl

/-- A table word that decodes is a word, and that word is placed. -/
theorem withFetchWord_of_decodes {s : State} {nbits w : Nat} {i : Instr} (h : decodeTableWord nbits w = some i) :
    ∃ r, decode r = i ∧ s.withFetchWord nbits w = placeWord r s := by
  unfold decodeTableWord at h
  unfold State.withFetchWord
  cases word : tableWord nbits w with
  | none => simp [word] at h
  | some r => exact ⟨r, by simpa [word] using h, rfl⟩

/-- Settles O8: the state the word runs from differs from s in its position, its marks and the store alone. -/
theorem placedWordRunsNext : Obligations.PlacedWordRunsNext := by
  intro s nbits w i h
  obtain ⟨r, rfl, placed⟩ := withFetchWord_of_decodes (s := s) h
  refine ⟨placedStart r s, ?_, ?_⟩
  · rw [placed, step_of_run (takeTurn_placeWord r s)]
  · cases r <;> exact ⟨rfl, rfl, rfl, rfl, rfl, rfl, rfl, rfl, rfl, rfl, rfl⟩

/-! ### What a command and a tick share -/

/-- The state u with the foreground's part of f: what `SameForeground` speaks of. -/
def State.withForeground (u f : State) : State :=
  { u with targetDuty := f.targetDuty, params := f.params, sel := f.sel, feedback := f.feedback }

/-- Putting in the foreground's part that is there already changes nothing. -/
theorem SameForeground.withForeground_eq {f u : State} (same : SameForeground f u) : u.withForeground f = u := by
  unfold State.withForeground
  rw [← same.targetDuty, ← same.params, ← same.sel, ← same.feedback]

/-- The foreground of f at work beside the scheduler's part of u. -/
def Fine.over (u : State) (f : Fine) : Fine := ⟨u.withForeground f.state, f.held⟩

/-- What a command does beside the Duty Store does not see the scheduler's part (R36). -/
theorem finishCommand_withForeground (b : Symbol) (u s : State) :
    finishCommand b (u.withForeground s) = u.withForeground (finishCommand b s) := by
  unfold finishCommand
  rw [show (u.withForeground s).sel = s.sel from rfl]
  split <;> rfl

/-- No access sees the scheduler's part (R38). -/
theorem Access.run_over (u : State) (f : Fine) (a : Access) : Access.run (f.over u) a = (Access.run f a).over u := by
  cases a with
  | load c => rfl
  | store c d => rfl
  | finish b => exact congrArg (Fine.mk · f.held) (finishCommand_withForeground b u f.state)

/-- Accesses do the same to the foreground's part beside any scheduler's part. -/
theorem runAccesses_over (u : State) (f : Fine) (as : List Access) :
    runAccesses as (f.over u) = (runAccesses as f).over u :=
  List.foldl_hom (Fine.over u) (Access.run_over u)

/-- Accesses, from the foreground's part of s, leave the scheduler's part of u as it is. -/
theorem runAccesses_of_sameForeground {s u : State} (same : SameForeground s u) (v : Duty) (as : List Access) :
    runAccesses as ⟨u, v⟩ = (runAccesses as ⟨s, v⟩).over u := by
  rw [← runAccesses_over u ⟨s, v⟩ as, Fine.over, same.withForeground_eq]

/-- Accesses leave the scheduler's part as it was. -/
theorem runAccesses_frame (as : List Access) (f : Fine) :
    f.state.withForeground (runAccesses as f).state = (runAccesses as f).state :=
  (congrArg Fine.state (runAccesses_of_sameForeground (s := f.state) ⟨rfl, rfl, rfl, rfl⟩ f.held as)).symm

/-- Accesses one list after the other. -/
theorem runAccesses_append (as bs : List Access) (f : Fine) :
    runAccesses (as ++ bs) f = runAccesses bs (runAccesses as f) :=
  List.foldl_append

/-- What a sequencer operation can have done is what it does: the converse of `tick_cases`. -/
theorem TickCase.exec_eq {x : Selector} {s t : State} (h : TickCase x s t) :
    exec (decode (.selector x)) s = .next t := by
  cases h with
  | mid p sel pend eq =>
    subst sel eq
    rw [decode, decodeSelector_mid]
    simp [exec, execTMid, pend]
  | clear p k sel pend off eq =>
    subst sel eq
    rw [decode, decodeSelector_mid]
    change execTMid p s = _
    unfold execTMid
    split
    · exact absurd (‹s.pend = none›.symm.trans pend) (by simp)
    · obtain rfl : _ = k := Option.some.inj (‹s.pend = some _›.symm.trans pend)
      rw [clearPin_onehot (s := { s with tick := tickAfter s }) (onehot_and_eq_zero.1 off), tickAfter_eq]
      rfl
  | adv c sel eq =>
    subst sel eq
    rw [← advance_eq]
    match c with
    | 0 => rfl
    | 1 => rfl
    | 2 => rfl
    | 3 => rfl
  | wrap sel eq =>
    subst sel eq
    rfl

/-- Of the foreground's part, a sequencer operation reads the Duty Store alone (R39). -/
theorem TickCase.withForeground {x : Selector} {s t f : State} (h : TickCase x s t)
    (store : f.targetDuty = s.targetDuty) : TickCase x (s.withForeground f) (t.withForeground f) := by
  cases h with
  | mid p sel pend eq => exact .mid p sel pend (by rw [eq]; rfl)
  | clear p k sel pend off eq => exact .clear p k sel pend off (by rw [eq]; rfl)
  | adv c sel eq =>
    have read : dutyGet c (s.withForeground f) = dutyGet c s := congrArg (·[c]) store
    exact .adv c sel (by rw [eq, read]; rfl)
  | wrap sel eq => exact .wrap sel (by rw [eq]; rfl)

/-! ### The accesses are the whole command -/

/-- The accesses of `set(c, T[c] + d)` are `adjust(c, d)`. -/
theorem runAccesses_adjust (c : Channel) (d : Int) (s : State) (v : Duty) :
    runAccesses (adjustAccesses c d) ⟨s, v⟩ = ⟨dutyAdjust c d s, dutyGet c s⟩ := rfl

/-- The accesses of `revalidate` on some channels. -/
def recheckAccesses (cs : List Channel) : List Access := cs.flatMap (adjustAccesses · 0)

/-- The accesses that the dispatched operation makes to the Duty Store. -/
def dispatchAccesses (b : Symbol) (sel : Option Channel) : List Access :=
  match decodeSymbol b, sel with
  | .inc, some c => adjustAccesses c Config.adjustStep
  | .dec, some c => adjustAccesses c (-Config.adjustStep)
  | _, _ => []

/-- The parts of a command's accesses. -/
theorem commandAccesses_eq (b : Symbol) (sel : Option Channel) :
    commandAccesses b sel = recheckAccesses [0, 1, 2, 3] ++ dispatchAccesses b sel ++ [.finish b] := rfl

/-- The dispatched operation makes no access to the Duty Store or one `adjust`. -/
theorem dispatchAccesses_form (b : Symbol) (sel : Option Channel) :
    dispatchAccesses b sel = [] ∨ ∃ c d, dispatchAccesses b sel = adjustAccesses c d := by
  unfold dispatchAccesses
  split
  · exact .inr ⟨_, _, rfl⟩
  · exact .inr ⟨_, _, rfl⟩
  · exact .inl rfl

/-- The accesses of `adjust(c, 0)` re-clamp the channel (R84). -/
theorem dutyAdjust_zero (c : Channel) (s : State) : dutyAdjust c 0 s = revalidateChannel c s := by
  unfold dutyAdjust revalidateChannel
  rw [Int.add_zero]

/-- `revalidate` on some channels, access by access. -/
theorem runAccesses_recheck (cs : List Channel) (s : State) (v : Duty) :
    (runAccesses (recheckAccesses cs) ⟨s, v⟩).state = cs.foldl (fun u c => revalidateChannel c u) s := by
  induction cs generalizing s v with
  | nil => rfl
  | cons c cs ih =>
    change (runAccesses (adjustAccesses c 0 ++ recheckAccesses cs) ⟨s, v⟩).state = _
    rw [runAccesses_append, runAccesses_adjust, dutyAdjust_zero, ih]
    rfl

/-- A dispatched command is its accesses to the Duty Store, then the rest; `INC` and `DEC` go by whether a channel is
selected (R97, R98). -/
theorem exec_symbol_eq_finishCommand (b : Symbol) (s : State) (v : Duty) :
    exec (decode (.symbol b)) s = .next (finishCommand b (runAccesses (dispatchAccesses b s.sel) ⟨s, v⟩).state) := by
  have op := symbol_form b
  simp only [decode, finishCommand, dispatchAccesses] at op ⊢
  obtain op | op | op | op | op | op | op := op <;> rw [op]
  · rfl
  · rfl
  · rfl
  · rfl
  · obtain ⟨_, _, _, _, _, _ | c, _⟩ := s <;> rfl
  · obtain ⟨_, _, _, _, _, _ | c, _⟩ := s <;> rfl
  · rfl

/-- With no tick between them, the accesses of a command are the whole command, from every state. -/
theorem wholeCommand_eq_runAccesses (s : State) (b : Symbol) (v : Duty) :
    wholeCommand b s = .next (runAccesses (commandAccesses b s.sel) ⟨s, v⟩).state := by
  have rechecked : (runAccesses (recheckAccesses [0, 1, 2, 3]) ⟨s, v⟩).state = revalidate s :=
    runAccesses_recheck _ s v
  rw [commandAccesses_eq, runAccesses_append, runAccesses_append]
  unfold wholeCommand
  rw [exec_symbol_eq_finishCommand b (revalidate s) (runAccesses (recheckAccesses [0, 1, 2, 3]) ⟨s, v⟩).held,
    ← rechecked]
  rfl

/-! ### Where a tick can fall -/

/-- Within bounds, no re-clamp changes the state, wherever it is cut off (R40). -/
theorem runAccesses_prefix_of_recheck {s : State} (bounds : s.InBounds) {cs : List Channel} {before : List Access}
    (cut : before <+: recheckAccesses cs) (v : Duty) : (runAccesses before ⟨s, v⟩).state = s := by
  induction cs generalizing before v with
  | nil => rw [List.prefix_nil.1 cut]; rfl
  | cons c cs ih =>
    change before <+: .load c :: .store c 0 :: recheckAccesses cs at cut
    obtain rfl | ⟨stores, rfl, cutStores⟩ := List.prefix_cons_iff.1 cut
    · rfl
    obtain rfl | ⟨rest, rfl, cutRest⟩ := List.prefix_cons_iff.1 cutStores
    · rfl
    change (runAccesses rest ⟨dutyAdjust c 0 s, dutyGet c s⟩).state = s
    rw [dutyAdjust_zero, revalidateChannel_of_mem (bounds c)]
    exact ih cutRest _

/-- What a command does beside the Duty Store leaves the Duty Store alone. -/
theorem finishCommand_targetDuty (b : Symbol) (s : State) : (finishCommand b s).targetDuty = s.targetDuty := by
  unfold finishCommand
  split <;> rfl

/-- Of a command's accesses one at most changes the Duty Store (R40): at every cut the state is still the one before the
command, or the accesses that are left change the store no more. -/
theorem commandAccesses_cut {b : Symbol} {s : State} {before after : List Access} (bounds : s.InBounds) (v : Duty)
    (cut : commandAccesses b s.sel = before ++ after) :
    (runAccesses before ⟨s, v⟩).state = s ∨
      (runAccesses after (runAccesses before ⟨s, v⟩)).state.targetDuty =
        (runAccesses before ⟨s, v⟩).state.targetDuty := by
  rw [commandAccesses_eq] at cut
  obtain whole | early := List.prefix_concat_iff.1 (⟨after, cut.symm⟩ : before <+: _ ++ [_])
  · obtain rfl : after = [] := by simpa [whole] using cut
    exact .inr rfl
  obtain none | ⟨c, d, adjust⟩ := dispatchAccesses_form b s.sel
  · rw [none, List.append_nil] at early
    exact .inl (runAccesses_prefix_of_recheck bounds early v)
  rw [show dispatchAccesses b s.sel = [.load c] ++ [.store c d] from adjust, ← List.append_assoc] at cut early
  obtain stored | early := List.prefix_concat_iff.1 early
  · obtain rfl : [.finish b] = after := by simpa [stored] using cut
    exact .inr (finishCommand_targetDuty b _)
  obtain loaded | early := List.prefix_concat_iff.1 early
  · rw [loaded, runAccesses_append]
    exact .inl (runAccesses_prefix_of_recheck bounds (List.prefix_refl _) v)
  · exact .inl (runAccesses_prefix_of_recheck bounds early v)

/-! ### R40 -/

/-- A tick that falls where the state is still the one before the command is a tick before the command. -/
theorem tick_before_command {b : Symbol} {s mid : State} {v : Duty} {before after : List Access}
    (cut : commandAccesses b s.sel = before ++ after) (unchanged : (runAccesses before ⟨s, v⟩).state = s)
    (same : SameForeground s mid) :
    wholeCommand b mid = .next (runAccesses after ⟨mid, (runAccesses before ⟨s, v⟩).held⟩).state := by
  have early : runAccesses before ⟨mid, v⟩ = ⟨mid, (runAccesses before ⟨s, v⟩).held⟩ := by
    rw [runAccesses_of_sameForeground same, Fine.over, unchanged, same.withForeground_eq]
  rw [wholeCommand_eq_runAccesses mid b v, same.sel, cut, runAccesses_append, early]

/-- A tick after which the accesses change the Duty Store no more can be moved behind them. -/
theorem tick_after_accesses {x : Selector} {f : Fine} {mid : State} {after : List Access}
    (tick : TickCase x f.state mid) (kept : (runAccesses after f).state.targetDuty = f.state.targetDuty) :
    TickCase x (runAccesses after f).state (runAccesses after ⟨mid, f.held⟩).state := by
  have moved := tick.withForeground kept
  rw [runAccesses_frame] at moved
  rwa [runAccesses_of_sameForeground tick.sameForeground]

/-- Settles O50: the tick moves before the whole command while the state is still the one before it, and behind it once
the command's one change of the Duty Store is made. -/
theorem commandMayBeTakenAsAtomic : Obligations.CommandMayBeTakenAsAtomic := by
  refine ⟨wholeCommand_eq_runAccesses, fun s b v x before after mid _ bounds cut run => ⟨_, rfl, ?_⟩⟩
  have tick := tick_cases run
  obtain unchanged | kept := commandAccesses_cut bounds v cut
  · rw [unchanged] at run tick
    exact .inl ⟨mid, run, tick_before_command cut unchanged tick.sameForeground⟩
  · have whole := wholeCommand_eq_runAccesses s b v
    rw [cut, runAccesses_append] at whole
    exact .inr ⟨_, whole, (tick_after_accesses tick kept).exec_eq⟩

end Sys2Proof.Machine

/-! PROOFS, 30_encoding.md: decode and encode are inverse on the well-formed operations, down to the bits as numbers
(R45 to R54), and the tables of the symbols (R46, R54) and of the selectors (R48). -/

namespace Sys2Proof

/-! ### Decode and encode -/

/-- The named symbols are the six of R46. -/
theorem isNamedSymbol_iff (b : Symbol) : isNamedSymbol b = true ↔
    b = 0x31#8 ∨ b = 0x32#8 ∨ b = 0x33#8 ∨ b = 0x34#8 ∨ b = 0x61#8 ∨ b = 0x64#8 := by
  simp [isNamedSymbol, or_assoc]

/-- A symbol without a row of its own decodes by the default row of format C (R46, R54). -/
theorem decodeSymbol_of_not_named {b : Symbol} (h : isNamedSymbol b = false) : decodeSymbol b = .bad b := by
  simp only [← Bool.not_eq_true, isNamedSymbol_iff, not_or] at h
  obtain ⟨h1, h2, h3, h4, ha, hd⟩ := h
  unfold decodeSymbol
  rw [if_neg h1, if_neg h2, if_neg h3, if_neg h4, if_neg ha, if_neg hd]

/-- A well-formed operation is decoded back from its word. -/
theorem decode_encode {i : Instr} (wf : i.wf = true) : decode (encode i) = i := by
  cases i with
  | bad b => exact decodeSymbol_of_not_named (by simpa [Instr.wf] using wf)
  | tMid p => exact Machine.decodeSelector_mid p
  | _ => rfl

/-- Every symbol is the word of an operation: one of the six with a row of their own, or `BAD`. -/
theorem symbol_is_encoded (b : Symbol) : ∃ i : Instr, i.wf = true ∧ encode i = .symbol b := by
  cases named : isNamedSymbol b with
  | false => exact ⟨.bad b, by simp [Instr.wf, named], rfl⟩
  | true =>
    obtain rfl | rfl | rfl | rfl | rfl | rfl := (isNamedSymbol_iff b).1 named
    · exact ⟨.sel0, rfl, rfl⟩
    · exact ⟨.sel2, rfl, rfl⟩
    · exact ⟨.sel1, rfl, rfl⟩
    · exact ⟨.sel3, rfl, rfl⟩
    · exact ⟨.inc, rfl, rfl⟩
    · exact ⟨.dec, rfl, rfl⟩

/-- Every selector is the word of an operation. -/
theorem selector_is_encoded (x : Selector) : ∃ i : Instr, i.wf = true ∧ encode i = .selector x := by
  obtain ⟨p, rfl⟩ | rfl | rfl | rfl | rfl | rfl | rfl | rfl | rfl := Machine.selector_form x
  · exact ⟨.tMid p, rfl, rfl⟩
  · exact ⟨.tAdv0, rfl, rfl⟩
  · exact ⟨.tAdv1, rfl, rfl⟩
  · exact ⟨.tAdv2, rfl, rfl⟩
  · exact ⟨.tAdv3, rfl, rfl⟩
  · exact ⟨.tWrap, rfl, rfl⟩
  · exact ⟨.tRsvd5, rfl, rfl⟩
  · exact ⟨.tRsvd6, rfl, rfl⟩
  · exact ⟨.tRsvd7, rfl, rfl⟩

/-- Every word of every format is the word of a well-formed operation. -/
theorem word_is_encoded (r : RawWord) : ∃ i : Instr, i.wf = true ∧ encode i = r := by
  cases r with
  | symbol b => exact symbol_is_encoded b
  | selector x => exact selector_is_encoded x
  | duty v => exact ⟨.dutyWr v, rfl, rfl⟩
  | steer w => exact ⟨.steerWr w, rfl, rfl⟩
  | clear q => exact ⟨.pinClr q, rfl, rfl⟩

/-- A word decodes to the one well-formed operation whose word it is. -/
theorem decode_eq_iff (r : RawWord) (i : Instr) : decode r = i ↔ i.wf = true ∧ encode i = r := by
  constructor
  · rintro rfl
    obtain ⟨i, wf, rfl⟩ := word_is_encoded r
    rw [decode_encode wf]
    exact ⟨wf, rfl⟩
  · rintro ⟨wf, rfl⟩
    exact decode_encode wf

/-! ### The bits as numbers -/

/-- The word read from a number has the format it was read in and that number as its bits. -/
theorem format_bits_of_ofNat {f : Format} {n : Nat} {r : RawWord} (h : RawWord.ofNat f n = .ok r) :
    f = r.format ∧ n = r.bits := by
  unfold RawWord.ofNat at h
  split at h
  next fits =>
    cases f <;> cases h <;> exact ⟨rfl, (Nat.mod_eq_of_lt fits).symm⟩
  next => cases h

/-- A number is read as a word exactly where it is that word's bits, in that word's format. -/
theorem ofNat_eq_ok_iff (f : Format) (n : Nat) (r : RawWord) :
    RawWord.ofNat f n = .ok r ↔ f = r.format ∧ n = r.bits := by
  constructor
  · exact format_bits_of_ofNat
  · rintro ⟨rfl, rfl⟩
    exact Laws.EncodedWidth.ofNat_bits r

/-- A number decodes to what the word it is read as decodes to. -/
theorem decodeNat_eq_ok_iff (f : Format) (n : Nat) (i : Instr) :
    decodeNat f n = .ok i ↔ ∃ r, RawWord.ofNat f n = .ok r ∧ decode r = i := by
  unfold decodeNat
  cases RawWord.ofNat f n <;> simp

/-- Settles O5: each word is the word of one well-formed operation, and each number that is read, is read as the one
word with its format and bits. -/
theorem decodeAndEncodeAgree : Obligations.DecodeAndEncodeAgree := by
  intro i f n
  calc decodeNat f n = .ok i
      ↔ ∃ r, (f = r.format ∧ n = r.bits) ∧ i.wf = true ∧ encode i = r := by
        simp only [decodeNat_eq_ok_iff, ofNat_eq_ok_iff, decode_eq_iff]
    _ ↔ i.wf = true ∧ f = (encode i).format ∧ n = (encode i).bits := by
        constructor
        · rintro ⟨_, word, wf, rfl⟩
          exact ⟨wf, word⟩
        · rintro ⟨wf, word⟩
          exact ⟨_, word, wf, rfl⟩

/-! ### The symbols (R46, R54) -/

/-- `BAD` is what the symbols without a row of their own decode to, and no other symbol does. -/
theorem decode_symbol_eq_bad_iff (b : Symbol) : decode (.symbol b) = .bad b ↔ isNamedSymbol b = false := by
  simp [decode_eq_iff, Instr.wf, encode]

/-- Of the 256 symbols 250 have no row of their own. -/
theorem count_not_named :
    ((List.range 256).filter fun n => decide (isNamedSymbol (BitVec.ofNat 8 n) = false)).length = 250 := by
  decide +kernel

/-- Settles O3: the six rows are read off, and every other symbol is none of the named ones. -/
theorem unnamedSymbolsAreBad : Obligations.UnnamedSymbolsAreBad := by
  refine ⟨rfl, rfl, rfl, rfl, rfl, rfl, fun b h1 h2 h3 h4 ha hd => ?_, ?_⟩
  · rw [decode_symbol_eq_bad_iff, ← Bool.not_eq_true, isNamedSymbol_iff]
    simp only [h1, h2, h3, h4, ha, hd, or_self, not_false_eq_true]
  · simp only [decode_symbol_eq_bad_iff]
    exact count_not_named

/-! ### The selectors (R48) -/

/-- Bit 3 of a selector is its parity, bits 2:0 are its phase code. -/
theorem selector_fields (odd : Bool) (p : PhaseCode) :
    (BitVec.ofBool odd ++ p).getLsbD 3 = odd ∧ (BitVec.ofBool odd ++ p).extractLsb' 0 3 = p := by
  revert odd p; decide

/-- The parity bit is that of the exact `tick + 1` (R60). -/
theorem oddTick_eq_decide (s : Machine.State) : Machine.oddTick s = decide ((s.tick.toNat + 1) % 2 = 1) := by
  rw [Machine.oddTick_eq]
  generalize s.tick = n
  revert n; decide

/-- Settles O4: the selector by its two fields, then the sixteen rows of the table. -/
theorem selectorsDecodeByTheTable : Obligations.SelectorsDecodeByTheTable := by
  refine ⟨fun s => ?_, Machine.decodeSelector_mid, rfl, rfl, rfl, rfl, rfl, rfl, rfl, rfl⟩
  obtain ⟨parity, phase⟩ := selector_fields (Machine.oddTick s) s.phase
  exact ⟨parity.trans (oddTick_eq_decide s), phase⟩

end Sys2Proof

/-! PROOFS, 40_sequencer.md: what each operation of the sequencer does and emits (R60 to R68, R73), the position it
keeps (R69), the schedule that no command moves (R71, R102), and runs that complete: any number of steps from a safe
state (R76), and the round with its trace (R71). -/

namespace Sys2Proof.Machine

/-! ### The operations (R61 to R68) -/

/-- `PIN_CLR` of the steered pin is refused (R112, U4). -/
theorem clearPin_steered {k : Pin} {s : State} (on : s.steerAct.getLsbD k.val = true) :
    clearPin (onehot k) s = .refused (.clearOfSteeredPin (onehot k)) := by
  have masked : onehot k &&& s.steerAct ≠ 0 := fun zero => by
    rw [onehot_and_eq_zero, on] at zero
    cases zero
  unfold clearPin
  rw [if_neg (by simp), if_pos masked]

/-- `T.MID` with the pending pin still steered is refused (R62, R112). -/
theorem exec_tMid_steered {k : Pin} {s : State} (p : PhaseCode) (pend : s.pend = some k)
    (on : s.steerAct.getLsbD k.val = true) : exec (.tMid p) s = .refused (.clearOfSteeredPin (onehot k)) := by
  have refused := clearPin_steered (s := { s with tick := tickAfter s }) on
  rw [pend] at refused
  simp only [exec, execTMid, pend, refused]

/-- Settles O9: the two clauses that complete are the cases of `T.MID`; the third is the collaborator's refusal. -/
theorem midTickClearsThePendingPin : Obligations.MidTickClearsThePendingPin := by
  intro s p
  have word : decode (.selector (1#1 ++ p)) = .tMid p := decodeSelector_mid p
  refine ⟨word, fun pend => ?_, fun k pend off => ?_, fun k => exec_tMid_steered p⟩
  · rw [← word]
    exact (TickCase.mid p rfl pend rfl).exec_eq
  · rw [← word]
    exact (TickCase.clear p k rfl pend (onehot_and_eq_zero.2 off) rfl).exec_eq

/-- Settles O10: what an advance leaves, for each channel. -/
theorem advanceProgramsDutyThenSteering : Obligations.AdvanceProgramsDutyThenSteering :=
  ⟨rfl, rfl, rfl, rfl, fun s =>
    ⟨congrArg Host.Outcome.next (advance_eq 0 none s), congrArg Host.Outcome.next (advance_eq 1 (some 0) s),
      congrArg Host.Outcome.next (advance_eq 2 (some 1) s), congrArg Host.Outcome.next (advance_eq 3 (some 2) s)⟩⟩

/-- Settles O11: the operation is one update of the state. -/
theorem wrapDisablesOutputsAndRecordsP3 : Obligations.WrapDisablesOutputsAndRecordsP3 := ⟨rfl, fun _ => rfl⟩

/-- Settles O12: the three operations read no state. -/
theorem reservedSelectorsAreRefused : Obligations.ReservedSelectorsAreRefused :=
  ⟨rfl, rfl, rfl, fun _ => ⟨rfl, rfl, rfl⟩⟩

/-- Settles O13: none of the cases of a sequencer operation writes any of these fields. -/
theorem ticksLeaveTheForegroundAlone : Obligations.TicksLeaveTheForegroundAlone := by
  intro x s t run
  have done := tick_cases run
  refine ⟨done.sameForeground, ?_⟩
  cases done <;> subst_vars <;> exact ⟨rfl, rfl, rfl, rfl, rfl⟩

/-- Settles O14, by what the operation was: within bounds the value an advance reads is a legal duty (R12, R6). -/
theorem tickEmissionsAreLegal : Obligations.TickEmissionsAreLegal := by
  intro x s t legal bounds run
  cases tick_cases run with
  | mid p sel pend eq => exact ⟨[], by simp [eq], .nothing⟩
  | clear p k sel pend off eq => exact ⟨_, by rw [eq], .clear k⟩
  | adv c sel eq =>
    obtain ⟨low, high⟩ := bounds c
    exact ⟨_, by rw [eq], .programme c (dutyGet c s) low high (BitVec.le_trans high (legal c).2)⟩
  | wrap sel eq => exact ⟨_, by rw [eq], .disable⟩

/-! ### The step of each agent (R7, R60, R90, R159) -/

/-- A tick that is due runs the operation of its selector. -/
theorem step_due {s : State} (due : s.tickDue = true) :
    step s = exec (decode (.selector (selector s))) { s with tickDue := false } :=
  step_of_run (takeTurn_due due)

/-- A tick that arrives where the incremented tick is even runs its operation at once. -/
theorem step_even_tick {s : State} {es : List Event} (idle : s.tickDue = false) (live : s.halted = false)
    (even : oddTick s = false) (rest : afterTick s.sched = some es) :
    step s = exec (decode (.selector (selector s))) { s with sched := es } := by
  rw [step_of_run (takeTurn_even_tick idle live even rest), ← idle]

/-- A tick that arrives where the incremented tick is odd takes `CARRIER_START` first. -/
theorem step_odd_tick {s : State} {es : List Event} (idle : s.tickDue = false) (live : s.halted = false)
    (odd : oddTick s = true) (rest : afterTick s.sched = some es) :
    step s = .next { carrierStart s with tickDue := true, sched := es } :=
  step_of_move ((takeTurn_afterTick idle live rest).trans (tickArrives_odd (s := { s with sched := es }) live odd))

/-- A symbol is revalidated, then dispatched. -/
theorem step_symbol {s : State} {b : Symbol} {es : List Event} (idle : s.tickDue = false)
    (event : s.sched = .symbol b :: es) :
    step s = exec (decode (.symbol b)) (revalidate { s with sched := es }) :=
  step_of_run (w := .symbol b) (by rw [takeTurn_idle idle, event]; rfl)

/-- Listing the events that are listed changes nothing. -/
theorem State.with_own_sched {s : State} {es : List Event} (h : s.sched = es) : { s with sched := es } = s := by
  subst h
  rfl

/-- With no event listed the tick source goes on (R147), here where the incremented tick is even. -/
theorem step_even_unlisted {s : State} (idle : s.tickDue = false) (live : s.halted = false) (unlisted : s.sched = [])
    (even : oddTick s = false) : step s = exec (decode (.selector (selector s))) s := by
  rw [step_even_tick idle live even (congrArg afterTick unlisted), State.with_own_sched unlisted]

/-- The same where it is odd. -/
theorem step_odd_unlisted {s : State} (idle : s.tickDue = false) (live : s.halted = false) (unlisted : s.sched = [])
    (odd : oddTick s = true) : step s = .next { carrierStart s with tickDue := true } := by
  rw [step_odd_tick idle live odd (congrArg afterTick unlisted)]
  exact congrArg Host.Outcome.next (State.with_own_sched (s := { carrierStart s with tickDue := true }) unlisted)

/-- Settles O6: one lemma per agent, with the list that the event leaves. -/
theorem stepRunsTheDecodedOperation : Obligations.StepRunsTheDecodedOperation :=
  ⟨fun _ => step_due, fun _ => step_even_unlisted, fun _ => step_odd_unlisted,
    fun _ _ idle live event even => step_even_tick idle live even (congrArg afterTick event),
    fun _ _ idle live event odd => step_odd_tick idle live odd (congrArg afterTick event),
    fun _ _ _ => step_symbol,
    fun _ _ _ idle event => step_of_run (by rw [takeTurn_idle idle, event]),
    fun _ _ idle event => step_of_move (by rw [takeTurn_idle idle, event])⟩

/-! ### The schedule (R71, R102): what a step does depends on no duty value, no selection and no message -/

/-- Two outcomes that a scheduler which sees no duty value and no command cannot tell apart. -/
inductive SameOutcome : Result → Result → Prop where
  | next {s t : State} (same : SameSchedule s t) : SameOutcome (.next s) (.next t)
  | fault (f : Fault) : SameOutcome (.fault f) (.fault f)
  | refused (r : Refusal) : SameOutcome (.refused r) (.refused r)

/-- The same of two turns: the same word to run, or the same kind of end. -/
inductive SameTurn : Turn → Turn → Prop where
  | run (w : RawWord) {s t : State} (same : SameSchedule s t) : SameTurn (.run w s) (.run w t)
  | move {s t : State} (same : SameSchedule s t) : SameTurn (.move s) (.move t)
  | stop (f : Fault) : SameTurn (.stop f) (.stop f)

/-- Two states in step stay so if each changes nothing of the scheduler's and the collaborator's. -/
theorem SameSchedule.of_frames {s t s' t' : State} (h : SameSchedule s t) (left : SameScheduler s s')
    (leftEvents : s'.sched = s.sched) (right : SameScheduler t t') (rightEvents : t'.sched = t.sched) :
    SameSchedule s' t' where
  params := by rw [left.params, right.params, h.params]
  tick := by rw [left.tick, right.tick, h.tick]
  phase := by rw [left.phase, right.phase, h.phase]
  pend := by rw [left.pend, right.pend, h.pend]
  steerShadow := by rw [left.steerShadow, right.steerShadow, h.steerShadow]
  steerAct := by rw [left.steerAct, right.steerAct, h.steerAct]
  stale := by rw [left.stale, right.stale, h.stale]
  sched := by rw [leftEvents, rightEvents, h.sched]
  tickDue := by rw [left.tickDue, right.tickDue, h.tickDue]
  halted := by rw [left.halted, right.halted, h.halted]

theorem SameSchedule.with_sched {s t : State} (h : SameSchedule s t) (es : List Event) :
    SameSchedule { s with sched := es } { t with sched := es } where
  __ := h
  sched := rfl

theorem SameSchedule.with_tickDue {s t : State} (h : SameSchedule s t) (due : Bool) :
    SameSchedule { s with tickDue := due } { t with tickDue := due } where
  __ := h
  tickDue := rfl

theorem SameSchedule.with_halted {s t : State} (h : SameSchedule s t) (halt : Bool) :
    SameSchedule { s with halted := halt } { t with halted := halt } where
  __ := h
  halted := rfl

/-- The parity and the selector are formed from the position alone (R48). -/
theorem SameSchedule.selector_eq {s t : State} (h : SameSchedule s t) : selector s = selector t := by
  unfold selector
  rw [oddTick_congr h.tick, h.phase]

/-- `revalidate` writes the Duty Store alone. -/
theorem SameSchedule.revalidate {s t : State} (h : SameSchedule s t) :
    SameSchedule (revalidate s) (revalidate t) where
  __ := h

/-- `CARRIER_START` latches the steering words whatever the duty is (R113). -/
theorem SameSchedule.carrierStart {s t : State} (h : SameSchedule s t) :
    SameSchedule (carrierStart s) (carrierStart t) where
  __ := h
  steerAct := h.steerShadow
  stale := by
    change s.stale ||| (s.steerAct &&& ~~~s.steerShadow) = t.stale ||| (t.steerAct &&& ~~~t.steerShadow)
    rw [h.stale, h.steerAct, h.steerShadow]

/-- `PIN_CLR` reads the steering alone (R112). -/
theorem SameSchedule.clearPin {s t : State} (h : SameSchedule s t) (q : PinWord) :
    SameOutcome (clearPin q s) (clearPin q t) := by
  unfold Machine.clearPin
  rw [h.steerAct]
  split_ifs
  · exact .refused _
  · exact .refused _
  · exact .next {
      __ := h
      steerAct := rfl
      stale := congrArg (· &&& ~~~q) h.stale }

/-- An advance programs some duty, and moves the rest alike (R61). -/
theorem SameSchedule.advance {s t : State} (h : SameSchedule s t) (c : Channel) (left : Option Pin) :
    SameOutcome (.next (advance c left s)) (.next (advance c left t)) :=
  .next {
    __ := h
    tick := tickAfter_congr h.tick
    phase := rfl
    pend := rfl
    steerShadow := rfl }

/-- `T.MID` goes by the pending pin and the steering: the three clauses of O9 (R62, R112). -/
theorem SameSchedule.exec_tMid {s t : State} (h : SameSchedule s t) (p : PhaseCode) :
    SameOutcome (exec (.tMid p) s) (exec (.tMid p) t) := by
  obtain ⟨-, leftIdle, leftClear, leftSteered⟩ := midTickClearsThePendingPin s p
  obtain ⟨-, rightIdle, rightClear, rightSteered⟩ := midTickClearsThePendingPin t p
  rw [h.pend] at leftIdle leftClear leftSteered
  rw [h.steerAct] at leftClear leftSteered
  cases pend : t.pend with
  | none =>
    rw [leftIdle pend, rightIdle pend]
    exact .next { __ := h, tick := congrArg (· + 1) h.tick, pend := rfl }
  | some k =>
    cases steered : t.steerAct.getLsbD k.val with
    | false =>
      rw [leftClear k pend steered, rightClear k pend steered]
      exact .next {
        __ := h
        tick := congrArg (· + 1) h.tick
        pend := rfl
        steerAct := rfl
        stale := congrArg (· &&& ~~~onehot k) h.stale }
    | true =>
      rw [leftSteered k pend steered, rightSteered k pend steered]
      exact .refused _

/-- Operations of the sequencer stay in step. -/
theorem SameSchedule.exec_selector {s t : State} (h : SameSchedule s t) (x : Selector) :
    SameOutcome (exec (decode (.selector x)) s) (exec (decode (.selector x)) t) := by
  obtain ⟨p, rfl⟩ | rfl | rfl | rfl | rfl | rfl | rfl | rfl | rfl := selector_form x
  · rw [decode, decodeSelector_mid]
    exact h.exec_tMid p
  · exact h.advance 0 none
  · exact h.advance 1 (some 0)
  · exact h.advance 2 (some 1)
  · exact h.advance 3 (some 2)
  · exact .next { __ := h, tick := rfl, phase := rfl, pend := rfl, steerShadow := rfl }
  · exact .refused _
  · exact .refused _
  · exact .refused _

/-- Commands stay in step, whichever of their cases each state takes (R102). -/
theorem SameSchedule.exec_symbol {s t : State} (h : SameSchedule s t) (b : Symbol) :
    SameOutcome (exec (decode (.symbol b)) s) (exec (decode (.symbol b)) t) := by
  obtain ⟨s', left, leftCase⟩ := command_cases b s
  obtain ⟨t', right, rightCase⟩ := command_cases b t
  obtain ⟨leftSame, leftEvents⟩ := leftCase.frame
  obtain ⟨rightSame, rightEvents⟩ := rightCase.frame
  rw [left, right]
  exact .next (h.of_frames leftSame leftEvents rightSame rightEvents)

/-- Every decoded operation stays in step: port words are refused by the word, the parameters and the steering. -/
theorem SameSchedule.exec {s t : State} (h : SameSchedule s t) (w : RawWord) :
    SameOutcome (exec (decode w) s) (exec (decode w) t) := by
  cases w with
  | symbol b => exact h.exec_symbol b
  | selector x => exact h.exec_selector x
  | duty v =>
    change SameOutcome (execDutyWr v s) (execDutyWr v t)
    unfold execDutyWr
    rw [h.params]
    split
    · exact .refused _
    · exact .next { __ := h }
  | steer w =>
    change SameOutcome (execSteerWr w s) (execSteerWr w t)
    unfold execSteerWr
    split
    · exact .next { __ := h, steerShadow := rfl }
    · exact .refused _
  | clear q => exact h.clearPin q

/-- A tick arrives alike. -/
theorem SameSchedule.tickArrives {s t : State} (h : SameSchedule s t) :
    SameTurn (tickArrives s) (tickArrives t) := by
  unfold Machine.tickArrives
  rw [h.halted, oddTick_congr h.tick]
  split_ifs
  · exact .move h
  · exact .move (h.carrierStart.with_tickDue true)
  · unfold tickStep
    rw [h.selector_eq]
    exact .run _ (h.with_tickDue false)

/-- The same agent moves next, with the same word. -/
theorem SameSchedule.takeTurn {s t : State} (h : SameSchedule s t) : SameTurn (takeTurn s) (takeTurn t) := by
  cases due : t.tickDue with
  | true =>
    rw [takeTurn_due (h.tickDue.trans due), takeTurn_due due, h.selector_eq]
    exact .run _ (h.with_tickDue false)
  | false =>
    rw [takeTurn_idle (h.tickDue.trans due), takeTurn_idle due, h.sched]
    cases t.sched with
    | nil =>
      change SameTurn (if s.halted then .move (Machine.carrierStart s) else Machine.tickArrives s)
        (if t.halted then .move (Machine.carrierStart t) else Machine.tickArrives t)
      rw [h.halted]
      split
      · exact .move h.carrierStart
      · exact h.tickArrives
    | cons e es =>
      cases e with
      | tick => exact (h.with_sched es).tickArrives
      | symbol b => exact .run _ (h.with_sched es).revalidate
      | tickAndSymbol b => exact (h.with_sched _).tickArrives
      | port op => exact .run _ (h.with_sched es)
      | carrier => exact .move (h.with_sched es).carrierStart
      | halt => exact .move ((h.with_sched es).with_halted true)
      | timingViolation => exact .stop _

/-- Steps stay in step. -/
theorem SameSchedule.step {s t : State} (h : SameSchedule s t) : SameOutcome (step s) (step t) := by
  have turn := h.takeTurn
  unfold Machine.step
  revert turn
  generalize Machine.takeTurn s = a, Machine.takeTurn t = b
  rintro (⟨w, same⟩ | same | f)
  · exact same.exec w
  · exact .next same
  · exact .fault f

/-- Settles O48: the turn is chosen alike, and what it runs stays in step. -/
theorem commandsDoNotMoveTheSchedule : Obligations.CommandsDoNotMoveTheSchedule := by
  intro s t h
  have outcome := h.step
  revert outcome
  generalize step s = a, step t = b
  rintro (same | _ | _)
  · exact same
  · rfl
  · rfl

/-! ### The position (R69) -/

/-- The next place of the ring of ten has its phase code and is on the ring (R13, R14). -/
theorem next_place_on_ring (n : TickCount) (small : n ≤ 9#4) :
    (if !n.getLsbD 0 then n.extractLsb' 1 3 else nextPhase (n.extractLsb' 1 3)) =
        (if n = 9 then 0 else n + 1).extractLsb' 1 3 ∧
      (if n = 9 then 0 else n + 1) ≤ 9#4 := by
  revert n; decide

/-- Every step keeps the position invariant: it stays at its place or moves to the next. -/
theorem step_keeps_position {s t : State} (place : s.AtPosition) (h : step s = .next t) : t.AtPosition := by
  unfold State.AtPosition
  obtain ⟨tick, phase⟩ | ⟨tick, phase⟩ := positionMovesRoundTheRing s t place h
  · rw [tick, phase]
    exact place
  · rw [tick, phase, oddTick_eq, place.1]
    exact next_place_on_ring s.tick place.2

/-- An odd incremented tick forms a selector of `T.MID` (R48). -/
theorem selector_of_odd {s : State} (odd : oddTick s = true) : selector s = 1#1 ++ s.phase := by
  unfold selector
  rw [odd]
  rfl

/-- At a position an even incremented tick forms the selector of an advance or of `T.WRAP` (R48, R69). -/
theorem selector_of_even {s : State} (place : s.AtPosition) (even : oddTick s = false) :
    (∃ c : Channel, selector s = BitVec.ofNat 4 c.val) ∨ selector s = 0b0100#4 := by
  obtain ⟨code, small⟩ := place
  rw [oddTick_eq] at even
  rw [selector_eq, code, even]
  generalize s.tick = n at even small
  revert n; decide

/-- No advance is a reserved row (R48). -/
theorem decode_adv_not_reserved (c : Channel) :
    decode (.selector (BitVec.ofNat 4 c.val)) ≠ .tRsvd5 ∧ decode (.selector (BitVec.ofNat 4 c.val)) ≠ .tRsvd6 ∧
      decode (.selector (BitVec.ofNat 4 c.val)) ≠ .tRsvd7 := by
  revert c; decide

/-- No selector formed at a position is reserved (R68, R69). -/
theorem decode_selector_not_reserved {s : State} (place : s.AtPosition) :
    decode (.selector (selector s)) ≠ .tRsvd5 ∧ decode (.selector (selector s)) ≠ .tRsvd6 ∧
      decode (.selector (selector s)) ≠ .tRsvd7 := by
  cases odd : oddTick s with
  | true =>
    rw [selector_of_odd odd, decode, decodeSelector_mid]
    exact ⟨nofun, nofun, nofun⟩
  | false =>
    obtain ⟨c, sel⟩ | sel := selector_of_even place odd
    · rw [sel]
      exact decode_adv_not_reserved c
    · rw [sel]
      decide

/-- Settles O15: `RESET` is a place of the ring, and R14 keeps it. -/
theorem positionIsKept : Obligations.PositionIsKept :=
  ⟨resetIsSafe.position, fun _ _ => step_keeps_position, fun _ => decode_selector_not_reserved⟩

/-! ### The blank slot (R75) -/

/-- A pin pending at a place of the blank slot is P3 (R67, R70). -/
theorem pendAt_in_blank {n : TickCount} {k : Pin} (blank : n.extractLsb' 1 3 = phaseBlank)
    (pend : pendAt n = some k) : k = 3 := by
  revert n k; decide

theorem Safe.pend_in_blank {s : State} {k : Pin} (safe : Safe s) (blank : s.phase = phaseBlank)
    (pend : s.pend = some k) : k = 3 := by
  obtain fixed | ⟨-, nothing⟩ := safe.pending
  · exact pendAt_in_blank (safe.position.1.symm.trans blank) (fixed.symm.trans pend)
  · rw [nothing] at pend
    cases pend

/-- No channel's phase is the blank slot (R49). -/
theorem phaseOf_ne_blank (c : Channel) : phaseOf c ≠ phaseBlank := by
  revert c; decide

/-- A tick that stays in the blank slot is a `T.MID`, and clears P3 at most. -/
theorem TickCase.trace_in_blank {s t : State} (done : TickCase (selector s) s t) (place : s.AtPosition)
    (blank : s.phase = phaseBlank) (pending : ∀ k, s.pend = some k → k = 3) (stay : t.phase = phaseBlank) :
    t.portTrace = s.portTrace ∨ t.portTrace = s.portTrace ++ [PortOp.pinClr (onehot 3)] := by
  cases done with
  | mid p sel pend eq => exact .inl (by rw [eq])
  | clear p k sel pend off eq =>
    obtain rfl := pending k pend
    exact .inr (by rw [eq])
  | adv c sel eq =>
    rw [eq] at stay
    exact absurd stay (phaseOf_ne_blank c)
  | wrap sel eq =>
    obtain ⟨-, phase, -⟩ := position_of_selector_wrap place sel
    rw [blank] at phase
    exact absurd phase (by decide)

/-- A step of a safe state that stays in the blank slot emits at most the clear of P3. -/
theorem Safe.trace_in_blank {s t : State} (safe : Safe s) (blank : s.phase = phaseBlank) (h : step s = .next t)
    (stay : t.phase = phaseBlank) :
    t.portTrace = s.portTrace ∨ t.portTrace = s.portTrace ++ [PortOp.pinClr (onehot 3)] := by
  have pending : ∀ k, s.pend = some k → k = 3 := fun k => safe.pend_in_blank blank
  cases step_cases h with
  | due due run =>
    exact (tick_cases run).trace_in_blank (s := { s with tickDue := false }) safe.position blank pending stay
  | tick es idle live even rest run =>
    exact (tick_cases run).trace_in_blank (s := { s with tickDue := false, sched := es }) safe.position blank
      pending stay
  | command b es idle event run => exact .inl (command_of_next run).frame.1.portTrace
  | port op es idle event run =>
    have env := safe.environment
    simp [event, Event.fromEnvironment] at env
  | latch es idle live odd rest eq => subst eq; exact .inl rfl
  | carrier es idle event eq => subst eq; exact .inl rfl
  | halt es idle event eq => subst eq; exact .inl rfl
  | silent es idle halted rest eq => subst eq; exact .inl rfl

/-- In the blank slot the shadow word steers nothing (R74). -/
theorem Safe.steerShadow_in_blank {s : State} (safe : Safe s) (blank : s.phase = phaseBlank) : s.steerShadow = 0 := by
  rw [safe.steerShadow, blank]
  decide

/-- Settles O43: R74 on both sides of the step, and what a tick of the blank slot emits. -/
theorem blankSlotEmitsNoDuty : Obligations.BlankSlotEmitsNoDuty := fun _ t safe blank h =>
  ⟨safe.steerShadow_in_blank blank, fun stay =>
    ⟨(everyStepKeepsSafe _ t safe h).steerShadow_in_blank stay, safe.trace_in_blank blank h stay⟩⟩

/-! ### Safe runs complete (R76, R101) -/

/-- The port operation of a `T.MID` (R62). -/
def clearOps : Option Pin → List PortOp
  | none => []
  | some k => [.pinClr (onehot k)]

/-- A `T.MID` completes unless the pending pin is still steered (R62, R112). -/
theorem exec_tMid_completes {s : State} (p : PhaseCode)
    (off : ∀ k, s.pend = some k → s.steerAct.getLsbD k.val = false) :
    exec (.tMid p) s = .next { s with
      tick := s.tick + 1, pend := none, stale := s.stale &&& ~~~pinWordOf s.pend,
      portTrace := s.portTrace ++ clearOps s.pend } := by
  obtain ⟨-, idle, clear, -⟩ := midTickClearsThePendingPin s p
  cases pend : s.pend with
  | none =>
    rw [idle pend]
    simp [clearOps, pinWordOf, pend, show s.stale &&& 15#4 = s.stale from BitVec.and_allOnes]
  | some k => exact clear k pend (off k pend)

/-- A pin that is left when the pins of w are taken out is not one of them. -/
theorem getLsbD_of_released {k : Pin} {w : PinWord} (released : onehot k &&& ~~~w = onehot k) :
    w.getLsbD k.val = false := by
  revert k w; decide

/-- When a tick is due, the pin it clears is not steered (R116). -/
theorem Safe.pend_not_steered {s : State} {k : Pin} (safe : Safe s) (due : s.tickDue = true)
    (pend : s.pend = some k) : s.steerAct.getLsbD k.val = false := by
  have steered : s.steerAct = steerOfPhase s.phase := by simpa [due] using safe.steerAct
  have released := safe.pend_released
  rw [pend] at released
  rw [steered]
  exact getLsbD_of_released released

/-- A tick that is due completes: the `T.MID` clears the one stale pin (R62, R116). -/
theorem Safe.step_due {s : State} (safe : Safe s) (due : s.tickDue = true) :
    step s = .next { s with
      tickDue := false, tick := s.tick + 1, pend := none, stale := 0,
      portTrace := s.portTrace ++ clearOps s.pend } := by
  have stale : s.stale = pinWordOf s.pend := by simpa [due] using safe.stale
  have cleared : s.stale &&& ~~~pinWordOf s.pend = 0 := by rw [stale]; exact BitVec.and_not_self _
  rw [Machine.step_due due, selector_of_odd (safe.due due), decode, decodeSelector_mid,
    exec_tMid_completes (s := { s with tickDue := false }) s.phase (fun _ => safe.pend_not_steered due)]
  exact congrArg Host.Outcome.next (by rw [cleared])

/-- An even tick completes: it is an advance or the wrap (R61, R67). -/
theorem exec_even_completes {s : State} (place : s.AtPosition) (even : oddTick s = false) :
    ∃ t, exec (decode (.selector (selector s))) s = .next t := by
  obtain ⟨c, sel⟩ | sel := selector_of_even place even
  · exact ⟨_, (TickCase.adv c sel rfl).exec_eq⟩
  · exact ⟨_, (TickCase.wrap sel rfl).exec_eq⟩

/-- A tick that arrives at a safe idle machine completes. -/
theorem Safe.tick_completes {s : State} {es : List Event} (safe : Safe s) (idle : s.tickDue = false)
    (rest : afterTick s.sched = some es) : ∃ t, step s = .next t := by
  cases odd : oddTick s with
  | true => exact ⟨_, step_odd_tick idle safe.running odd rest⟩
  | false =>
    rw [step_even_tick idle safe.running odd rest]
    exact exec_even_completes (s := { s with sched := es }) safe.position odd

/-- Every step of a safe state completes, whichever event is next. -/
theorem Safe.step_completes {s : State} (safe : Safe s) : ∃ t, step s = .next t := by
  have env := safe.environment
  cases due : s.tickDue with
  | true => exact ⟨_, safe.step_due due⟩
  | false =>
    cases events : s.sched with
    | nil => exact safe.tick_completes due (congrArg afterTick events)
    | cons e es =>
      rw [events] at env
      cases e with
      | tick => exact safe.tick_completes due (congrArg afterTick events)
      | tickAndSymbol b => exact safe.tick_completes due (congrArg afterTick events)
      | symbol b =>
        obtain ⟨t, run, -⟩ := command_cases b (revalidate { s with sched := es })
        exact ⟨t, (step_symbol due events).trans run⟩
      | port op => simp [Event.fromEnvironment] at env
      | carrier => simp [Event.fromEnvironment] at env
      | halt => simp [Event.fromEnvironment] at env
      | timingViolation => simp [Event.fromEnvironment] at env

/-- The first of several steps. -/
theorem steps_succ_of_step {s t : State} (h : step s = .next t) (n : Nat) : steps (n + 1) s = steps n t := by
  rw [steps, h]

/-- Settles O45, by induction on the number of steps: each completes in a safe state. -/
theorem safeRunsNeverStop : Obligations.SafeRunsNeverStop := by
  intro s n
  induction n generalizing s with
  | zero => exact fun safe => ⟨s, rfl, safe⟩
  | succ n ih =>
    intro safe
    obtain ⟨t, h⟩ := safe.step_completes
    rw [steps_succ_of_step h]
    exact ih t (everyStepKeepsSafe s t safe h)

/-- A run from a safe state ends in one. -/
theorem Safe.of_steps {s t : State} {n : Nat} (safe : Safe s) (run : steps n s = .next t) : Safe t := by
  obtain ⟨u, ran, done⟩ := safeRunsNeverStop s n safe
  rw [run] at ran
  injection ran with same
  exact same ▸ done

/-! ### The round (R71) -/

/-- A safe state between two ticks, with an odd one next and no command given: the start of a slot of the round. -/
structure State.SlotStart (s : State) : Prop where
  safe : Safe s
  idle : s.tickDue = false
  unlisted : s.sched = []
  odd : oddTick s = true

/-- What the `CARRIER_START` and the `T.MID` of an odd tick leave, two steps later (R159, R113, R62). -/
def State.afterMid (s : State) : State :=
  { s with
    tick := s.tick + 1, pend := none, steerAct := s.steerShadow, dutyAct := s.dutyShadow,
    portTrace := s.portTrace ++ clearOps s.pend }

/-- What a slot that ends with `T.ADVc` leaves (R61). -/
def State.afterSlot (s : State) (c : Channel) : State := advance c (leftBy c) s.afterMid

theorem State.afterSlot_eq (s : State) (c : Channel) :
    s.afterSlot c = { s with
      tick := s.tick + 1 + 1, phase := phaseOf c, pend := leftBy c, dutyShadow := dutyGet c s, dutyAct := s.dutyShadow,
      steerShadow := onehot c, steerAct := s.steerShadow,
      portTrace := s.portTrace ++ clearOps s.pend ++ [.dutyWr (dutyGet c s), .steerWr (onehot c)] } :=
  advance_eq c (leftBy c) s.afterMid

/-- What the slot that ends with `T.WRAP` leaves (R67). -/
def State.afterLastSlot (s : State) : State :=
  { s.afterMid with
    tick := 0, phase := phaseBlank, steerShadow := 0, pend := some 3,
    portTrace := s.afterMid.portTrace ++ [.steerWr 0] }

/-- What a round leaves: the four slots that each end with an advance, and the one that ends with the wrap. -/
def State.afterRound (s : State) : State :=
  ((((s.afterSlot 0).afterSlot 1).afterSlot 2).afterSlot 3).afterLastSlot

/-- The odd tick of a slot takes two steps. -/
theorem State.SlotStart.steps_mid {s : State} (start : s.SlotStart) (n : Nat) :
    steps (n + 2) s = steps n s.afterMid := by
  obtain ⟨safe, idle, unlisted, odd⟩ := start
  have clean : s.stale = 0 := by simpa [idle] using safe.stale
  rw [steps_succ_of_step (step_odd_unlisted idle safe.running unlisted odd),
    steps_succ_of_step ((safe.of_latch idle odd).step_due rfl)]
  simp [State.afterMid, carrierStart, idle, clean]

/-- Each tick changes the parity of `tick`. -/
theorem getLsbD_zero_succ (n : TickCount) : (n + 1).getLsbD 0 = !n.getLsbD 0 := by
  revert n; decide

/-- The even tick of a slot takes one step, and its selector is the phase code (R48). -/
theorem State.SlotStart.steps_slot {s t : State} (start : s.SlotStart) (done : TickCase (0#1 ++ s.phase) s.afterMid t)
    (n : Nat) : steps (n + 3) s = steps n t := by
  have even : oddTick s.afterMid = false := by
    have odd := start.odd
    rw [oddTick_eq] at odd ⊢
    rw [show s.afterMid.tick = s.tick + 1 from rfl, getLsbD_zero_succ, odd]
    rfl
  have sel : selector s.afterMid = 0#1 ++ s.phase := by
    unfold selector
    rw [even]
    rfl
  have advances : step s.afterMid = .next t := by
    rw [step_even_unlisted (s := s.afterMid) start.idle start.safe.running start.unlisted even, sel,
      done.exec_eq]
  rw [start.steps_mid (n + 1), steps_succ_of_step advances]

/-- The phase code before channel c's forms the selector of `T.ADVc` at an even tick (R48). -/
theorem even_selector_before_adv (c : Channel) : 0#1 ++ BitVec.ofNat 3 c.val = BitVec.ofNat 4 c.val := by
  revert c; decide

/-- In the phase before channel c's the slot ends with `T.ADVc`. -/
theorem State.SlotStart.steps_adv {s : State} (start : s.SlotStart) {c : Channel}
    (phase : s.phase = BitVec.ofNat 3 c.val) (n : Nat) : steps (n + 3) s = steps n (s.afterSlot c) :=
  start.steps_slot (.adv c (phase ▸ even_selector_before_adv c) (advance_eq c (leftBy c) s.afterMid)) n

/-- In `CH3` the slot ends with `T.WRAP`. -/
theorem State.SlotStart.steps_wrap {s : State} (start : s.SlotStart) (phase : s.phase = phaseOf 3) (n : Nat) :
    steps (n + 3) s = steps n s.afterLastSlot :=
  start.steps_slot (.wrap (phase ▸ rfl) rfl) n

/-- A slot that ends with `T.ADVc` ends at the start of the next one. -/
theorem State.SlotStart.afterSlot {s : State} (start : s.SlotStart) {c : Channel}
    (phase : s.phase = BitVec.ofNat 3 c.val) : (s.afterSlot c).SlotStart where
  safe := start.safe.of_steps (start.steps_adv phase 0)
  idle := start.idle
  unlisted := start.unlisted
  odd := by
    have odd := start.odd
    rw [oddTick_eq] at odd ⊢
    rw [State.afterSlot, advance_eq]
    change (!(s.tick + 1 + 1).getLsbD 0) = true
    rwa [getLsbD_zero_succ, getLsbD_zero_succ, Bool.not_not]

/-- The round is its five slots. -/
theorem State.SlotStart.steps_round {s : State} (start : s.SlotStart) (phase : s.phase = phaseBlank) :
    steps 15 s = .next s.afterRound := by
  have first := start.afterSlot (c := 0) phase
  have second := first.afterSlot (c := 1) rfl
  have third := second.afterSlot (c := 2) rfl
  have fourth := third.afterSlot (c := 3) rfl
  calc steps 15 s
      = steps 12 (s.afterSlot 0) := start.steps_adv (c := 0) phase 12
    _ = steps 9 ((s.afterSlot 0).afterSlot 1) := first.steps_adv rfl 9
    _ = steps 6 (((s.afterSlot 0).afterSlot 1).afterSlot 2) := second.steps_adv rfl 6
    _ = steps 3 ((((s.afterSlot 0).afterSlot 1).afterSlot 2).afterSlot 3) := third.steps_adv rfl 3
    _ = .next s.afterRound := fourth.steps_wrap rfl 0

/-- The table of R71: the operations of a round, but for the clear of P3. -/
def roundOps (store : Vector Duty 4) : List PortOp :=
  [.dutyWr store[(0 : Channel)], .steerWr 0b0001#4,
   .dutyWr store[(1 : Channel)], .steerWr 0b0010#4, .pinClr 0b0001#4,
   .dutyWr store[(2 : Channel)], .steerWr 0b0100#4, .pinClr 0b0010#4,
   .dutyWr store[(3 : Channel)], .steerWr 0b1000#4, .pinClr 0b0100#4,
   .steerWr 0b0000#4]

/-- The trace of a round. -/
theorem State.afterRound_portTrace (s : State) :
    s.afterRound.portTrace = s.portTrace ++ clearOps s.pend ++ roundOps s.targetDuty := by
  simp [State.afterRound, State.afterLastSlot, State.afterSlot_eq, State.afterMid, clearOps, leftBy, dutyGet,
    onehot, roundOps]

/-- At the start of a round the pin that may be pending is P3 (R70). -/
theorem Safe.clearOps_in_blank {s : State} (safe : Safe s) (blank : s.phase = phaseBlank) :
    clearOps s.pend = if s.pend = none then [] else [.pinClr 0b1000#4] := by
  cases pend : s.pend with
  | none => rfl
  | some k =>
    obtain rfl := safe.pend_in_blank blank pend
    rfl

/-- Settles O46: the five slots of the round, and the fields they write. -/
theorem roundEmitsItsTrace : Obligations.RoundEmitsItsTrace := by
  intro s safe tick idle unlisted
  have blank : s.phase = phaseBlank := by rw [safe.position.1, tick]; rfl
  have shadow := safe.steerShadow_in_blank blank
  have odd : oddTick s = true := by rw [oddTick_eq, tick]; rfl
  refine ⟨s.afterRound, State.SlotStart.steps_round ⟨safe, idle, unlisted, odd⟩ blank, ?_, ?_⟩
  · rw [State.afterRound_portTrace, safe.clearOps_in_blank blank, roundOps]
  · simp [State.afterRound, State.afterLastSlot, State.afterSlot_eq, State.afterMid, tick, blank, shadow, dutyGet,
      onehot]

end Sys2Proof.Machine

/-! PROOFS, 41_duty_store.md: what the operations of the Duty Store store (R80 to R85, R87), and that they write nothing
else. -/

namespace Sys2Proof.Machine

/-! ### Clamping (R80, R85) -/

theorem clamp_of_lt {lo hi v : Int} (h : lo ≤ hi) (below : v < lo) : clamp lo hi v = lo := by
  rw [clamp_eq_min_max v h]; omega

theorem clamp_of_gt {lo hi v : Int} (h : lo ≤ hi) (above : hi < v) : clamp lo hi v = hi := by
  rw [clamp_eq_min_max v h]; omega

theorem clamp_clamp {lo hi : Int} (v : Int) (h : lo ≤ hi) : clamp lo hi (clamp lo hi v) = clamp lo hi v :=
  clamp_of_mem (le_clamp v h) (clamp_le v h)

/-- A sum that has already moved from within the bounds in the direction of d may be clamped before d is added. -/
theorem clamp_clamp_add {lo hi x y d : Int} (low : lo ≤ x) (high : x ≤ hi) (way : 0 ≤ d ∧ x ≤ y ∨ d ≤ 0 ∧ y ≤ x) :
    clamp lo hi (clamp lo hi y + d) = clamp lo hi (y + d) := by
  have le : lo ≤ hi := le_trans low high
  rw [clamp_eq_min_max _ le, clamp_eq_min_max _ le, clamp_eq_min_max _ le]
  obtain ⟨up, moved⟩ | ⟨down, moved⟩ := way <;> omega

/-- Settles O17: one lemma per clause. -/
theorem clampCutsAtInclusiveBounds : Obligations.ClampCutsAtInclusiveBounds :=
  fun _ _ _ le => ⟨clamp_of_lt le, clamp_of_gt le, clamp_of_mem⟩

/-! ### `set` and `adjust` (R81, R82) -/

theorem dutyGet_dutySet_of_ne {c d : Channel} (h : d ≠ c) (v : Int) (s : State) :
    dutyGet d (dutySet c v s) = dutyGet d s := by
  rw [dutyGet_dutySet, if_neg h.symm]

/-- A `set` writes the Duty Store alone. -/
theorem dutySet_frame (c : Channel) (v : Int) (s : State) :
    dutySet c v s = { s with targetDuty := (dutySet c v s).targetDuty } := rfl

/-- The clamp at the bounds of channel c, written with the parameters. -/
theorem clamp_bounds {s : State} (legal : s.params.Legal) (c : Channel) (v : Int) :
    clamp (lowerBound c s) (upperBound c s) v =
      min (max v s.params.minDuty[c].toNat) s.params.maxDuty[c].toNat :=
  clamp_eq_min_max v (lowerBound_le_upperBound legal c)

/-- `adjust(c, d)` stores the clamped sum without truncation (R82). -/
theorem dutyAdjust_stores {s : State} (legal : s.params.Legal) (c : Channel) (d : Int) :
    ((dutyGet c (dutyAdjust c d s)).toNat : Int) =
      clamp (lowerBound c s) (upperBound c s) ((dutyGet c s).toNat + d) :=
  dutySet_stores legal c _

/-- Settles O18: what the channel reads after the write, what the others read, and the frame. -/
theorem setStoresTheClampedValue : Obligations.SetStoresTheClampedValue := fun s c v legal =>
  ⟨(dutySet_stores legal c v).trans (clamp_bounds legal c v), fun _ ne => dutyGet_dutySet_of_ne ne v s,
    dutySet_frame c v s⟩

/-- Settles O19: an `adjust` is a `set` of the sum. -/
theorem adjustClampsAfterTheSum : Obligations.AdjustClampsAfterTheSum := fun s c d legal =>
  ⟨(dutyAdjust_stores legal c d).trans (clamp_bounds legal c _), fun _ ne => dutyGet_dutySet_of_ne ne _ s,
    dutySet_frame c _ s⟩

/-- Settles O20: the value a `set` stores is within the bounds, where the re-clamp does nothing. -/
theorem clampingIsIdempotent : Obligations.ClampingIsIdempotent :=
  ⟨fun _ _ v le => ⟨clamp_clamp v le, clamp_of_mem⟩,
    fun s c v legal => revalidateChannel_of_mem (s := dutySet c v s) (dutyGet_bounds_after_set legal c v)⟩

/-! ### Repeated adjustments (R87) -/

theorem dutyAdjust_iterate_params (c : Channel) (d : Int) (n : Nat) (s : State) :
    ((dutyAdjust c d)^[n] s).params = s.params := by
  induction n with
  | zero => rfl
  | succ n ih => rw [Function.iterate_succ_apply']; exact ih

/-- Adding d any number of times moves in the direction of d. -/
theorem add_mul_natCast_direction (x d : Int) (n : Nat) :
    0 ≤ d ∧ x ≤ x + d * n ∨ d ≤ 0 ∧ x + d * n ≤ x := by
  obtain up | down := le_total 0 d
  · exact .inl ⟨up, le_add_of_nonneg_right (mul_nonneg up n.cast_nonneg)⟩
  · exact .inr ⟨down, add_le_of_nonpos_right (mul_nonpos_of_nonpos_of_nonneg down n.cast_nonneg)⟩

/-- n adjustments by d from within the bounds store the clamp of the one sum x + dn. -/
theorem dutyAdjust_iterate_stores {s : State} (legal : s.params.Legal) {c : Channel}
    (low : lowerBound c s ≤ (dutyGet c s).toNat) (high : ((dutyGet c s).toNat : Int) ≤ upperBound c s) (d : Int)
    (n : Nat) :
    ((dutyGet c ((dutyAdjust c d)^[n] s)).toNat : Int) =
      clamp (lowerBound c s) (upperBound c s) ((dutyGet c s).toNat + d * n) := by
  induction n with
  | zero => simpa using (clamp_of_mem low high).symm
  | succ n ih =>
    have params := dutyAdjust_iterate_params c d n s
    rw [Function.iterate_succ_apply', dutyAdjust_stores (by rwa [params]), ih,
      show lowerBound c ((dutyAdjust c d)^[n] s) = lowerBound c s by unfold lowerBound; rw [params],
      show upperBound c ((dutyAdjust c d)^[n] s) = upperBound c s by unfold upperBound; rw [params],
      clamp_clamp_add low high (add_mul_natCast_direction _ d n)]
    congr 1
    push_cast
    ring

/-- The mixed sequence of R87: up from 590 is cut off at 592, and down from there is 582. -/
theorem dutyGet_adjust_up_down {s : State} {c : Channel} (low : s.params.minDuty[c] = 142)
    (high : s.params.maxDuty[c] = 592) (value : s.targetDuty[c] = 590) :
    dutyGet c (dutyAdjust c (-10) (dutyAdjust c 10 s)) = 582 := by
  have lower : lowerBound c s = 142 := by unfold lowerBound; rw [low]; rfl
  have upper : upperBound c s = 592 := by unfold upperBound; rw [high]; rfl
  have up : dutyGet c (dutyAdjust c 10 s) = 592 := by
    rw [dutyAdjust, dutyGet_dutySet, if_pos rfl, lower, upper, dutyGet, value]
    decide
  rw [dutyAdjust, dutyGet_dutySet, if_pos rfl, up,
    show lowerBound c (dutyAdjust c 10 s) = 142 from lower, show upperBound c (dutyAdjust c 10 s) = 592 from upper]
  decide

/-- Settles O21: from within the bounds the sum x + 10n can only leave them at the top, and x - 10n at the bottom. -/
theorem repeatedAdjustmentsReach : Obligations.RepeatedAdjustmentsReach := by
  refine ⟨fun s c n legal bounds => ?_, fun _ => dutyGet_adjust_up_down⟩
  have low : s.params.minDuty[c].toNat ≤ s.targetDuty[c].toNat := (bounds c).1
  have high : s.targetDuty[c].toNat ≤ s.params.maxDuty[c].toNat := (bounds c).2
  have reached := dutyAdjust_iterate_stores legal (c := c) (Int.ofNat_le.mpr low) (Int.ofNat_le.mpr high)
  rw [reached, reached, clamp_bounds legal, clamp_bounds legal, dutyGet]
  constructor <;> omega

/-! ### `revalidate` (R84) -/

/-- `revalidate` repairs a store out of its bounds. -/
theorem revalidate_inBounds {s : State} (legal : s.params.Legal) : (revalidate s).InBounds := by
  intro c
  have le := lowerBound_le_upperBound legal c
  have low := le_clamp (dutyGet c s).toNat le
  have high := clamp_le (dutyGet c s).toNat le
  rw [← dutyGet_revalidate legal c] at low high
  exact ⟨Int.ofNat_le.mp low, Int.ofNat_le.mp high⟩

/-- Settles O22: each channel's own clamp is within its bounds, and within them nothing is written. -/
theorem revalidateClampsEveryChannel : Obligations.RevalidateClampsEveryChannel := fun _ legal =>
  ⟨fun c => (dutyGet_revalidate legal c).trans (clamp_bounds legal c _), revalidate_inBounds legal, rfl,
    revalidate_of_inBounds⟩

end Sys2Proof.Machine

/-! PROOFS, 42_commands.md: what each command writes and answers (R91 to R99), that every command answers once (R101),
and that a selection, once made, stays one (R100). -/

namespace Sys2Proof.Machine

/-! ### The commands, one by one (R91 to R99) -/

/-- Settles O24: each select command is one update of the state. -/
theorem selectCommandsSelectAndAnswer : Obligations.SelectCommandsSelectAndAnswer :=
  ⟨rfl, rfl, rfl, rfl, fun _ => ⟨rfl, rfl, rfl, rfl⟩⟩

/-- Settles O26: a symbol without a row of its own decodes to `BAD`, which writes its message alone. -/
theorem badSymbolIsEchoedAndChangesNothing : Obligations.BadSymbolIsEchoedAndChangesNothing := by
  intro s b
  obtain ⟨-, -, -, -, -, -, bad, -⟩ := unnamedSymbolsAreBad
  exact ⟨bad b, rfl⟩

/-- Settles O29: the texts with a fixed end are computed; `INVALID` carries its symbol at the end of a fixed text. -/
theorem feedbackTextsAreTheSources : Obligations.FeedbackTextsAreTheSources :=
  ⟨by decide, by decide, by decide, by decide, by decide, fun _ => rfl⟩

/-- With no channel selected an adjustment only answers `NOSEL` (R97, R98, R131). -/
theorem adjustSelected_none {s : State} (unselected : s.sel = none) (d : Int) :
    adjustSelected d s = appendFeedback .noSel s := by
  simp only [adjustSelected, unselected, raiseCondition, Condition.message]

/-- With channel c selected it adjusts that channel and answers with the value after it (R97, R98). -/
theorem adjustSelected_some {s : State} {c : Channel} (selected : s.sel = some c) (d : Int) :
    adjustSelected d s = appendFeedback (.adjOk c (dutyGet c (dutyAdjust c d s))) (dutyAdjust c d s) := by
  simp only [adjustSelected, selected]

/-- What the adjustment of the selected channel stores and answers, with its whole frame (R82). -/
theorem adjustSelected_moves {s t : State} {c : Channel} {d : Int} (selected : s.sel = some c)
    (legal : s.params.Legal) (h : adjustSelected d s = t) :
    (t.targetDuty[c].toNat : Int) =
        min (max ((s.targetDuty[c].toNat : Int) + d) s.params.minDuty[c].toNat) s.params.maxDuty[c].toNat ∧
      (∀ e : Channel, e ≠ c → t.targetDuty[e] = s.targetDuty[e]) ∧
      t.feedback = s.feedback ++ [.adjOk c t.targetDuty[c]] ∧
      t = { s with targetDuty := t.targetDuty, feedback := t.feedback } := by
  obtain ⟨stored, others, -⟩ := adjustClampsAfterTheSum s c d legal
  rw [adjustSelected_some selected d] at h
  subst h
  exact ⟨stored, others, rfl, rfl⟩

/-- Settles O25: `INC` and `DEC` are the adjustments by 10 and by -10. -/
theorem adjustCommandsMoveTheSelectedChannel : Obligations.AdjustCommandsMoveTheSelectedChannel := by
  refine ⟨rfl, rfl, fun s unselected => ?_, fun s c selected legal => ?_⟩
  · exact ⟨congrArg _ (adjustSelected_none unselected Config.adjustStep),
      congrArg _ (adjustSelected_none unselected (-Config.adjustStep))⟩
  · exact ⟨⟨_, rfl, adjustSelected_moves selected legal rfl⟩, ⟨_, rfl, adjustSelected_moves selected legal rfl⟩⟩

/-! ### Every command answers once (R101) -/

/-- A dispatched command appends one message. -/
theorem CommandCase.answers_once {b : Symbol} {s t : State} (done : CommandCase b s t) :
    ∃ m, t.feedback = s.feedback ++ [m] := by
  cases done with
  | select c op eq => exact ⟨.ctrl c, by rw [eq]; rfl⟩
  | missing op unselected eq => exact ⟨.noSel, by rw [eq]; rfl⟩
  | adjust c d op selected eq => exact ⟨.adjOk c (dutyGet c (dutyAdjust c d s)), by rw [eq]; rfl⟩
  | invalid op eq => exact ⟨.invalid b, by rw [eq]; rfl⟩

/-- A dispatched command writes no `T[c]`, or one and not `sel`. -/
theorem CommandCase.writes_sel_or_one_duty {b : Symbol} {s t : State} (done : CommandCase b s t) :
    t.targetDuty = s.targetDuty ∨
      (t.sel = s.sel ∧ ∃ c : Channel, ∀ d : Channel, d ≠ c → t.targetDuty[d] = s.targetDuty[d]) := by
  cases done with
  | select c op eq => exact .inl (by rw [eq]; rfl)
  | missing op unselected eq => exact .inl (by rw [eq]; rfl)
  | adjust c d op selected eq =>
    subst eq
    exact .inr ⟨rfl, c, fun e ne => dutyGet_dutySet_of_ne ne _ s⟩
  | invalid op eq => exact .inl (by rw [eq]; rfl)

/-- `revalidate` writes the Duty Store alone, so what a command leaves alone after it is as it was before it. -/
theorem SameScheduler.of_revalidated {s t : State} {es : List Event}
    (same : SameScheduler (revalidate { s with sched := es }) t) : SameScheduler s t where
  __ := same

/-- Settles O27: the step is a dispatched command after `revalidate`, which does nothing within the bounds. -/
theorem everyCommandAnswersOnce : Obligations.EveryCommandAnswersOnce := by
  intro s b es idle event
  obtain ⟨t, run, done⟩ := command_cases b (revalidate { s with sched := es })
  obtain ⟨same, events⟩ := done.frame
  obtain ⟨m, answered⟩ := done.answers_once
  refine ⟨t, m, (step_symbol idle event).trans run, answered, same.of_revalidated, events, fun _ bounds => ?_⟩
  rw [revalidate_of_inBounds (s := { s with sched := es }) bounds] at done
  exact done.writes_sel_or_one_duty

/-! ### A selection stays one (R100) -/

/-- Only a command step touches what the foreground owns. -/
theorem step_sameForeground_or_command {s t : State} (h : step s = .next t) :
    SameForeground s t ∨
      ∃ b es, s.sched = .symbol b :: es ∧ CommandCase b (revalidate { s with sched := es }) t := by
  cases step_cases h with
  | command b es idle event run => exact .inr ⟨b, es, event, command_of_next run⟩
  | due due run => exact .inl { (tick_cases run).sameForeground with }
  | tick es idle live even rest run => exact .inl { (tick_cases run).sameForeground with }
  | port op es idle event run => exact .inl { (port_cases run).sameForeground with }
  | latch es idle live odd rest eq => subst eq; exact .inl ⟨rfl, rfl, rfl, rfl⟩
  | carrier es idle event eq => subst eq; exact .inl ⟨rfl, rfl, rfl, rfl⟩
  | halt es idle event eq => subst eq; exact .inl ⟨rfl, rfl, rfl, rfl⟩
  | silent es idle halted rest eq => subst eq; exact .inl ⟨rfl, rfl, rfl, rfl⟩

/-- A dispatched command leaves `sel` as it was, or is a select command, which leaves a selection. -/
theorem CommandCase.sel_eq_or_select {b : Symbol} {s t : State} (done : CommandCase b s t) :
    t.sel = s.sel ∨ t.sel ≠ none ∧
      (decode (.symbol b) = .sel0 ∨ decode (.symbol b) = .sel1 ∨ decode (.symbol b) = .sel2 ∨
        decode (.symbol b) = .sel3) := by
  cases done with
  | select c op eq => exact .inr ⟨by simp [eq], op⟩
  | missing op unselected eq => exact .inl (by rw [eq]; rfl)
  | adjust c d op selected eq => exact .inl (by rw [eq]; rfl)
  | invalid op eq => exact .inl (by rw [eq]; rfl)

/-- `NOSEL` is the answer of no other case than the one with no channel selected. -/
theorem CommandCase.sel_eq_none_of_noSel {b : Symbol} {s t : State} (done : CommandCase b s t)
    (answer : t.feedback = s.feedback ++ [.noSel]) : s.sel = none := by
  cases done with
  | select c op eq => simp [eq] at answer
  | missing op unselected eq => exact unselected
  | adjust c d op selected eq => simp [eq, dutyAdjust] at answer
  | invalid op eq => simp [eq] at answer

/-- Settles O28: a step leaves the foreground alone, or it is a command step, whose `revalidate` reads no selection. -/
theorem selectionIsSticky : Obligations.SelectionIsSticky := by
  intro s t h
  obtain same | ⟨b, es, event, done⟩ := step_sameForeground_or_command h
  · refine ⟨fun selected => same.sel ▸ selected, fun changed => absurd same.sel changed, fun answer => ?_⟩
    simp [same.feedback] at answer
  · have onlyMissing := done.sel_eq_none_of_noSel
    obtain kept | ⟨remains, op⟩ := done.sel_eq_or_select
    · exact ⟨fun selected absent => selected (kept.symm.trans absent), fun changed => absurd kept changed, onlyMissing⟩
    · exact ⟨fun _ => remains, fun _ => ⟨b, es, event, op⟩, onlyMissing⟩

end Sys2Proof.Machine

/-! PROOFS, 43_pwm_collaborator.md: what the port words and `CARRIER_START` write (R110 to R113), the level of a pin
(R115), and what the pins of a safe machine show (R116 to R120). -/

namespace Sys2Proof.Machine

/-! ### The port words (R110 to R112) -/

/-- Settles O31: the operand is compared with `P_COUNTS`. -/
theorem dutyWriteGoesToTheShadow : Obligations.DutyWriteGoesToTheShadow := fun _ _ =>
  ⟨fun within => if_neg (BitVec.not_lt.2 within), fun above => if_pos above⟩

/-- The words with exactly one bit set are those of the four pins (R8, R51). -/
theorem isOneBit_iff (q : PinWord) : isOneBit q = true ↔ ∃ k : Pin, q = onehot k := by
  revert q; decide

/-- The steering words are 0000 and those of the four pins (R50). -/
theorem isSteerWord_iff (w : PinWord) : isSteerWord w = true ↔ w = 0 ∨ ∃ k : Pin, w = onehot k := by
  rw [isSteerWord, Bool.or_eq_true, beq_iff_eq, isOneBit_iff]
  rfl

/-- Settles O32: the words with a defined effect are the steering words of R50. -/
theorem steerWriteReplacesTheShadow : Obligations.SteerWriteReplacesTheShadow := fun _ w =>
  ⟨fun word => if_pos ((isSteerWord_iff w).2 word), fun nonzero several =>
    if_neg fun word => ((isSteerWord_iff w).1 word).elim nonzero fun ⟨k, one⟩ => several k one⟩

/-! ### The level of a pin (R115) -/

theorem pinLevel_of_steered {s : State} {k : Pin} (on : s.steerAct.getLsbD k.val = true) :
    pinLevel k s = .carrier := if_pos on

theorem pinLevel_of_stale {s : State} {k : Pin} (off : s.steerAct.getLsbD k.val = false)
    (stale : staleFlag k s = true) : pinLevel k s = .unknown :=
  (if_neg (Bool.eq_false_iff.1 off)).trans (if_pos stale)

theorem pinLevel_of_not_stale {s : State} {k : Pin} (off : s.steerAct.getLsbD k.val = false)
    (fresh : staleFlag k s = false) : pinLevel k s = .low :=
  (if_neg (Bool.eq_false_iff.1 off)).trans (if_neg (Bool.eq_false_iff.1 fresh))

/-- With no pin stale every pin is on the carrier or low, as the steering word says. -/
theorem pinLevel_of_stale_eq_zero {s : State} (clean : s.stale = 0) (k : Pin) :
    pinLevel k s = if s.steerAct.getLsbD k.val then .carrier else .low := by
  have fresh : staleFlag k s = false := by simp [staleFlag, clean]
  rw [pinLevel, fresh]
  rfl

theorem pinLevel_of_nothing_steered {s : State} (off : s.steerAct = 0) (clean : s.stale = 0) (k : Pin) :
    pinLevel k s = .low := by
  simp [pinLevel_of_stale_eq_zero clean, off]

/-- Settles O36: the three rows of the table, and what an observation makes of the last two. -/
theorem pinLevelsByTheTable : Obligations.PinLevelsByTheTable := by
  refine fun s k => ⟨pinLevel_of_steered, fun off stale => ?_, fun off fresh => ?_⟩
  · have level := pinLevel_of_stale off stale
    exact ⟨level, fun n count => by rw [pinHigh, level]⟩
  · have level := pinLevel_of_not_stale off fresh
    exact ⟨level, fun n count => by rw [pinHigh, level]⟩

/-- Settles O33: the clear takes flag k out of the stale word; the refusals are those of the collaborator. -/
theorem pinClearTakesEffectAtOnce : Obligations.PinClearTakesEffectAtOnce := by
  refine fun s => ⟨fun k off => ⟨_, clearPin_onehot off, ?_, fun j other => ?_, rfl⟩, fun k => clearPin_steered,
    fun q several => if_pos ?_⟩
  · exact pinLevel_of_not_stale off (by simp [staleFlag])
  · simp [staleFlag, other]
  · exact Bool.eq_false_iff.2 fun one => ((isOneBit_iff q).1 one).elim several

/-! ### `CARRIER_START` (R113) -/

/-- Settles O34: the stale word after the latch, bit by bit. -/
theorem carrierStartLatchesBothStages : Obligations.CarrierStartLatchesBothStages := fun s =>
  ⟨rfl, rfl, fun k => by simp [staleFlag, carrierStart, k.isLt], rfl⟩

/-! ### One pin at a time (R116, R118, R119) -/

/-- Between two ticks of a safe machine no pin is stale. -/
theorem Safe.stale_of_idle {s : State} (safe : Safe s) (idle : s.tickDue = false) : s.stale = 0 := by
  simpa [idle] using safe.stale

/-- Settles O38: the pin in `pend` is the one stale pin and not a steered one, and the tick that is due is the `T.MID`
that clears it. -/
theorem arbiterClearsAReleasedPin : Obligations.ArbiterClearsAReleasedPin := by
  intro s k safe due pend
  have off := safe.pend_not_steered due pend
  have stale : s.stale = onehot k := by simpa [due, pend, pinWordOf] using safe.stale
  refine ⟨off, by simp [staleFlag, stale], _, safe.step_due due, rfl, ?_, ?_⟩
  · exact pinLevel_of_not_stale off (by simp [staleFlag])
  · simp [pend, clearOps]

/-- The steering word of a phase steers one pin or none (R74). -/
theorem steerOfPhase_eq_pinWordOf (p : PhaseCode) : ∃ o : Option Pin, steerOfPhase p = pinWordOf o := by
  revert p; decide

/-- What the pins of a safe machine show steers one pin or none. -/
theorem Safe.steerAct_eq_pinWordOf {s : State} (safe : Safe s) : ∃ o : Option Pin, s.steerAct = pinWordOf o := by
  rw [safe.steerAct]
  split
  · exact steerOfPhase_eq_pinWordOf s.phase
  · exact ⟨s.pend, rfl⟩

/-- Two pins in the word of an optional pin are the same. -/
theorem eq_of_getLsbD_pinWordOf {o : Option Pin} {j k : Pin} (left : (pinWordOf o).getLsbD j.val = true)
    (right : (pinWordOf o).getLsbD k.val = true) : j = k := by
  revert o j k; decide

/-- Settles O41: with no pin stale a pin that is not low is steered, and at most one pin is. -/
theorem atMostOnePinIsDriven : Obligations.AtMostOnePinIsDriven := by
  intro s safe idle j k highJ highK
  have steered : ∀ i : Pin, pinLevel i s ≠ .low → s.steerAct.getLsbD i.val = true := by
    intro i high
    rw [pinLevel_of_stale_eq_zero (safe.stale_of_idle idle)] at high
    exact (ite_ne_right_iff.1 high).1
  obtain ⟨o, word⟩ := safe.steerAct_eq_pinWordOf
  exact ⟨eq_of_getLsbD_pinWordOf (word ▸ steered j highJ) (word ▸ steered k highK), steered j highJ⟩

/-- `T.ADVc` follows an odd tick count, in the phase before channel c's (R69). -/
theorem place_before_adv (c : Channel) :
    (BitVec.ofNat 4 (2 * c.val + 1)).extractLsb' 1 3 = BitVec.ofNat 3 c.val ∧
      (BitVec.ofNat 4 (2 * c.val + 1)).getLsbD 0 = true := by
  revert c; decide

/-- No tick is due where the incremented tick is even (R159). -/
theorem Safe.idle_of_even {s : State} (safe : Safe s) (even : oddTick s = false) : s.tickDue = false :=
  Bool.eq_false_iff.2 fun due => Bool.eq_false_iff.1 even (safe.due due)

/-- One tick on, the other half of a sub-period is next (R48). -/
theorem oddTick_of_tick_succ {s t : State} (h : t.tick = s.tick + 1) : oddTick t = !oddTick s := by
  rw [oddTick_eq, oddTick_eq, h, getLsbD_zero_succ]

/-- With no command given, the step at the place of `T.ADVc` is `T.ADVc` (R48, R69). -/
theorem Safe.step_adv {s : State} {c : Channel} (safe : Safe s) (unlisted : s.sched = [])
    (tick : s.tick = BitVec.ofNat 4 (2 * c.val + 1)) :
    oddTick s = false ∧ step s = .next (advance c (leftBy c) s) := by
  obtain ⟨code, bit⟩ := place_before_adv c
  have even : oddTick s = false := by rw [oddTick_eq, tick, bit]; rfl
  have sel : selector s = BitVec.ofNat 4 c.val := by
    rw [selector, even, safe.position.1, tick, code]
    exact even_selector_before_adv c
  refine ⟨even, ?_⟩
  rw [step_even_unlisted (safe.idle_of_even even) safe.running unlisted even]
  exact (TickCase.adv c sel (advance_eq c (leftBy c) s)).exec_eq

/-- Settles O40: `T.ADVc` writes the two shadow stages alone, and the next step is the `CARRIER_START` that latches
them. -/
theorem shownDutyIsTheOneRead : Obligations.ShownDutyIsTheOneRead := by
  intro s c safe unlisted tick
  replace tick : s.tick = BitVec.ofNat 4 (2 * c.val + 1) := by rw [← tick, BitVec.ofNat_toNat, BitVec.setWidth_eq]
  obtain ⟨even, adv⟩ := safe.step_adv unlisted tick
  have odd : oddTick (advance c (leftBy c) s) = true := by
    rw [oddTick_of_tick_succ (congrArg State.tick (advance_eq c (leftBy c) s)), even]
    rfl
  have latch := step_odd_unlisted (s := advance c (leftBy c) s) (safe.idle_of_even even) safe.running unlisted odd
  exact ⟨_, _, adv, latch, rfl, rfl, rfl, rfl⟩

/-! ### The pins over a round (R117, R120) -/

/-- The first step of a slot is its `CARRIER_START` (R159). -/
theorem State.SlotStart.steps_latch {s : State} (start : s.SlotStart) :
    steps 1 s = .next { carrierStart s with tickDue := true } :=
  steps_succ_of_step (step_odd_unlisted start.idle start.safe.running start.unlisted start.odd) 0

/-- Through the carrier period that a slot's `CARRIER_START` opens, from its `T.MID` to the slot's end, the pins show
what was programmed before it, and none is stale (R113, R159). -/
theorem State.SlotStart.shows_shadow {s : State} (start : s.SlotStart) {n : Nat} (within : n = 2 ∨ n = 3) :
    ∃ t, steps n s = .next t ∧ t.steerAct = s.steerShadow ∧ t.dutyAct = s.dutyShadow ∧ t.stale = 0 := by
  have mid := start.steps_mid
  have safe : Safe s.afterMid := start.safe.of_steps (mid 0)
  have idle : s.afterMid.tickDue = false := start.idle
  obtain rfl | rfl := within
  · exact ⟨_, mid 0, rfl, rfl, safe.stale_of_idle idle⟩
  · have even : oddTick s.afterMid = false := by
      rw [oddTick_of_tick_succ (s := s) rfl, start.odd]
      rfl
    obtain ⟨t, run⟩ := exec_even_completes safe.position even
    obtain ⟨-, duty, steer, -, due, -⟩ := ticksLeaveTheForegroundAlone _ _ t run
    have last : step s.afterMid = .next t :=
      (step_even_unlisted idle safe.running start.unlisted even).trans run
    have after : Safe t := everyStepKeepsSafe _ t safe last
    exact ⟨t, (mid 1).trans (steps_succ_of_step last 0), steer, duty, after.stale_of_idle (due.trans idle)⟩

/-- The start of the slot in which channel c is programmed, in a round that began in s: what its `CARRIER_START` is to
latch is channel c's (R61). -/
structure State.ChannelSlot (s : State) (c : Channel) (t : State) : Prop where
  start : t.SlotStart
  phase : t.phase = phaseOf c
  steerShadow : t.steerShadow = onehot c
  dutyShadow : t.dutyShadow = s.targetDuty[c]
  store : t.targetDuty = s.targetDuty

/-- The slot before channel c's ends at the start of channel c's. -/
theorem State.SlotStart.afterSlot_channelSlot {s t : State} (start : t.SlotStart) {c : Channel}
    (phase : t.phase = BitVec.ofNat 3 c.val) (store : t.targetDuty = s.targetDuty) :
    s.ChannelSlot c (t.afterSlot c) where
  start := start.afterSlot phase
  phase := rfl
  steerShadow := rfl
  dutyShadow := congrArg (·[c]) store
  store := store

/-- With no command given, channel c's slot starts 3c + 3 steps into the round, by induction on the channel. -/
theorem State.SlotStart.steps_channelSlot {s : State} (start : s.SlotStart) (blank : s.phase = phaseBlank)
    (c : Channel) : ∃ t, s.ChannelSlot c t ∧ ∀ n, steps (3 * c.val + 3 + n) s = steps n t := by
  induction c using Fin.induction with
  | zero =>
    refine ⟨_, start.afterSlot_channelSlot (c := 0) blank rfl, fun n => ?_⟩
    rw [← start.steps_adv (c := 0) blank n, Nat.add_comm n]
    rfl
  | succ i ih =>
    obtain ⟨t, slot, run⟩ := ih
    refine ⟨_, slot.start.afterSlot_channelSlot (c := i.succ) slot.phase slot.store, fun n => ?_⟩
    rw [← slot.start.steps_adv (c := i.succ) slot.phase n, ← run (n + 3)]
    exact congrArg (steps · s) (by rw [Fin.val_succ, Fin.val_castSucc]; omega)

/-- A safe state at tick 0 with no command given is the start of a slot in the blank phase (R69). -/
theorem Safe.slotStart_of_tick_zero {s : State} (safe : Safe s) (tick : s.tick = 0) (idle : s.tickDue = false)
    (unlisted : s.sched = []) : s.SlotStart ∧ s.phase = phaseBlank :=
  ⟨⟨safe, idle, unlisted, by rw [oddTick_eq, tick]; rfl⟩, by rw [safe.position.1, tick]; rfl⟩

/-- Settles O47: the blank slot shows the cleared steering word, and channel c's slot shows what `T.ADVc` wrote. -/
theorem eachPinCarriesOnePulseARound : Obligations.EachPinCarriesOnePulseARound := by
  intro s safe tick idle unlisted
  obtain ⟨start, blank⟩ := safe.slotStart_of_tick_zero tick idle unlisted
  refine ⟨fun n within => ?_, fun c n within => ?_⟩
  · obtain ⟨t, run, steer, -, clean⟩ := start.shows_shadow within
    have off : t.steerAct = 0 := steer.trans (safe.steerShadow_in_blank blank)
    exact ⟨t, run, off, pinLevel_of_nothing_steered off clean⟩
  · obtain ⟨r, slot, run⟩ := start.steps_channelSlot blank c
    obtain ⟨t, shown, steer, duty, clean⟩ := slot.start.shows_shadow (n := n - (3 * c.val + 3)) (by omega)
    have one : t.steerAct = onehot c := steer.trans slot.steerShadow
    refine ⟨t, ?_, one, duty.trans slot.dutyShadow, fun k => ?_⟩
    · rw [← shown, ← run]
      exact congrArg (steps · s) (by omega)
    · simp [pinLevel_of_stale_eq_zero clean, one]

/-- Settles O39: the first slot after `RESET` is the blank one of a round, and the `CARRIER_START` that follows it
latches what `T.ADV0` read. -/
theorem pinsAreLowUntilTheSecondCarrierStart : Obligations.PinsAreLowUntilTheSecondCarrierStart := by
  obtain ⟨start, blank⟩ := resetIsSafe.slotStart_of_tick_zero rfl rfl rfl
  obtain ⟨low, -⟩ := eachPinCarriesOnePulseARound State.reset resetIsSafe rfl rfl rfl
  have second := start.afterSlot (c := 0) blank
  refine ⟨fun n few => ?_, ?_⟩
  · obtain rfl | rfl | within : n = 0 ∨ n = 1 ∨ n = 2 ∨ n = 3 := by omega
    · exact ⟨_, rfl, pinLevel_of_nothing_steered rfl rfl⟩
    · exact ⟨_, start.steps_latch, pinLevel_of_nothing_steered rfl rfl⟩
    · obtain ⟨t, run, -, all⟩ := low n within
      exact ⟨t, run, all⟩
  · exact ⟨_, (start.steps_adv (c := 0) blank 1).trans second.steps_latch, rfl, rfl, rfl, rfl⟩

end Sys2Proof.Machine

/-! PROOFS, 60_exceptions.md: the order of a tick and a symbol that are ready together (R137), and the condition that a
command records (R134). -/

namespace Sys2Proof.Machine

/-! ### A tick goes before a symbol (R137) -/

/-- A step is a function of the turn alone. -/
theorem step_eq_of_takeTurn_eq {s u : State} (same : takeTurn s = takeTurn u) : step s = step u := by
  unfold step
  rw [same]

/-- Settles O7: in both states the turn is the tick's arrival with the symbol left listed. -/
theorem tickGoesBeforeASymbolReadyWithIt : Obligations.TickGoesBeforeASymbolReadyWithIt := by
  intro s b es idle event
  have together : takeTurn s = tickArrives { s with sched := .symbol b :: es } := by rw [takeTurn_idle idle, event]
  have inTurn : takeTurn { s with sched := .tick :: .symbol b :: es } =
      tickArrives { s with sched := .symbol b :: es } := takeTurn_idle idle
  exact step_eq_of_takeTurn_eq (together.trans inTurn.symm)

/-! ### The condition of a command (R130 to R134) -/

/-- The operation and the selection it meets fix the condition in a dispatched command's one message. -/
theorem CommandCase.answer_condition {b : Symbol} {s t : State} (done : CommandCase b s t) :
    ∃ m, t.feedback = s.feedback ++ [m] ∧
      m.condition =
        (if decode (.symbol b) = .bad b then some (.invalidCommand b)
        else if (decode (.symbol b) = .inc ∨ decode (.symbol b) = .dec) ∧ s.sel = none then some .missingSelection
        else none) := by
  cases done with
  | select c op eq =>
    refine ⟨.ctrl c, by rw [eq]; rfl, ?_⟩
    obtain op | op | op | op := op <;> simp [op, Message.condition]
  | missing op unselected eq =>
    refine ⟨.noSel, by rw [eq]; rfl, ?_⟩
    obtain op | op := op <;> simp [op, unselected, Message.condition]
  | adjust c d op selected eq =>
    refine ⟨.adjOk c (dutyGet c (dutyAdjust c d s)), by rw [eq]; rfl, ?_⟩
    obtain op | op := op <;> simp [op, selected, Message.condition]
  | invalid op eq =>
    exact ⟨.invalid b, by rw [eq]; rfl, (if_pos op).symm⟩

/-- Settles O30: the step is a dispatched command after `revalidate`, which writes neither the log nor the selection. -/
theorem oneConditionACommandAtMost : Obligations.OneConditionACommandAtMost := by
  intro s b es idle event
  obtain ⟨t, run, done⟩ := command_cases b (revalidate { s with sched := es })
  obtain ⟨m, answered, condition⟩ := done.answer_condition
  exact ⟨t, m, (step_symbol idle event).trans run, answered, condition⟩

end Sys2Proof.Machine

/-! PROOFS, 70_reset_and_hazards.md: the reset table (R150), the latch that comes with odd ticks alone (R159), the pins
between a `CARRIER_START` and its `T.MID` (R163), and the way of a duty from the store to its pin (R164). -/

namespace Sys2Proof.Machine

/-! ### Reset (R150) -/

/-- The Duty Store after `RESET` (R10). -/
theorem reset_targetDuty (c : Channel) : State.reset.targetDuty[c] = Config.initDuty c := by
  match c with
  | 0 => rfl
  | 1 => rfl
  | 2 => rfl
  | 3 => rfl

/-- Settles O1: the elements are read off the reset state, and the initial duties are within bounds by R6. -/
theorem resetLeavesTheResetValues : Obligations.ResetLeavesTheResetValues :=
  ⟨rfl, rfl, rfl, rfl, rfl, rfl, rfl, fun c => ⟨reset_targetDuty c, reset_inBounds c⟩, rfl, rfl,
    fun _ => BitVec.getLsbD_zero, rfl⟩

/-! ### The latch comes with odd ticks (R159) -/

/-- A step of a safe state leaves what the pins show, or is the `CARRIER_START` of an odd tick and leaves the tick
due. -/
theorem Safe.keeps_latched_or_latches {s t : State} (safe : Safe s) (h : step s = .next t) :
    (t.steerAct = s.steerAct ∧ t.dutyAct = s.dutyAct) ∨
      (oddTick s = true ∧ s.tickDue = false ∧ t.tickDue = true) := by
  have env := safe.environment
  cases step_cases h with
  | due due run =>
    obtain ⟨-, duty, steer, -⟩ := ticksLeaveTheForegroundAlone _ _ t run
    exact .inl ⟨steer, duty⟩
  | tick es idle live even rest run =>
    obtain ⟨-, duty, steer, -⟩ := ticksLeaveTheForegroundAlone _ _ t run
    exact .inl ⟨steer, duty⟩
  | latch es idle live odd rest eq => exact .inr ⟨odd, idle, by rw [eq]⟩
  | command b es idle event run =>
    have same := (command_of_next run).frame.1
    exact .inl ⟨same.steerAct, same.dutyAct⟩
  | port op es idle event run => simp [event, Event.fromEnvironment] at env
  | carrier es idle event eq =>
    obtain event | ⟨halted, -⟩ := event
    · simp [event, Event.fromEnvironment] at env
    · simp [safe.running] at halted
  | halt es idle event eq => subst eq; exact .inl ⟨rfl, rfl⟩
  | silent es idle halted rest eq => subst eq; exact .inl ⟨rfl, rfl⟩

/-- Settles O35: the one step that latches is the `CARRIER_START` of an odd tick, and the tick it leaves due has the
selector of `T.MID` and completes. -/
theorem carrierStartComesWithOddTicks : Obligations.CarrierStartComesWithOddTicks := by
  refine ⟨fun s t safe h changed => ?_, fun s safe due => ⟨?_, _, safe.step_due due, rfl, rfl⟩⟩
  · obtain ⟨steer, duty⟩ | latches := safe.keeps_latched_or_latches h
    · exact (changed.elim (· steer) (· duty)).elim
    · exact latches
  · rw [selector_of_odd (safe.due due)]
    exact decodeSelector_mid s.phase

/-! ### The stale window (R163) -/

/-- Between a `CARRIER_START` and its `T.MID` the pins show the shadow word (R113). -/
theorem Safe.steerAct_of_due {s : State} (safe : Safe s) (due : s.tickDue = true) : s.steerAct = s.steerShadow := by
  rw [safe.steerShadow]
  simpa [due] using safe.steerAct

/-- There, the pending pin and no other is stale (R116). -/
theorem Safe.staleFlag_of_due {s : State} {k : Pin} (safe : Safe s) (due : s.tickDue = true) (pend : s.pend = some k)
    (j : Pin) : staleFlag j s = decide (j = k) := by
  have stale : s.stale = onehot k := by simpa [due, pend, pinWordOf] using safe.stale
  rw [staleFlag, stale, onehot_getLsbD]

/-- Settles O42: the pending pin is stale and not steered; every other pin is on the carrier or low. -/
theorem staleWindowHoldsTheReleasedPin : Obligations.StaleWindowHoldsTheReleasedPin := by
  intro s k safe due pend
  have stale := safe.staleFlag_of_due due pend
  refine ⟨pinLevel_of_stale (safe.pend_not_steered due pend) (by simp [stale]), fun j other => ?_⟩
  rw [← safe.steerAct_of_due due]
  cases steered : s.steerAct.getLsbD j.val with
  | true => simp [pinLevel_of_steered steered]
  | false => simp [pinLevel_of_not_stale steered (show staleFlag j s = false by simp [stale, other])]

/-! ### From the store to the pin (R164) -/

/-- The place of a state among the 15 steps of a round: three for each slot, its `CARRIER_START`, its `T.MID` and its
even tick (R71, R159; log entry 4). -/
def placeInRound (tick : TickCount) (due : Bool) : ZMod 15 :=
  3 * (tick.toNat / 2 : ℕ) + if tick.getLsbD 0 then 2 else if due then 1 else 0

/-- The same, as a state has it. -/
def State.placeInRound (s : State) : ZMod 15 := Machine.placeInRound s.tick s.tickDue

/-- A tick moves to the next place, from that of a `T.MID` that is due or that of an even tick. -/
theorem placeInRound_tick (n : TickCount) (small : n ≤ 9#4) :
    placeInRound (if n = 9 then 0 else n + 1) false = placeInRound n (!n.getLsbD 0) + 1 := by
  revert n; decide

/-- The `CARRIER_START` of an odd tick moves to the next place. -/
theorem placeInRound_latch (n : TickCount) (even : n.getLsbD 0 = false) :
    placeInRound n true = placeInRound n false + 1 := by
  revert n; decide

/-- The third place of the slot before channel c's is that of `T.ADVc`. -/
theorem tick_of_placeInRound_adv {n : TickCount} {due : Bool} {c : Channel} (small : n ≤ 9#4)
    (place : placeInRound n due = 3 * (c.val : ℕ) + 2) : n.toNat = 2 * c.val + 1 := by
  revert n due c; decide

/-- Two places after that of `T.ADVc` the tick of channel c's slot is due. -/
theorem due_of_placeInRound_latched {n : TickCount} {due : Bool} {c : Channel} (small : n ≤ 9#4)
    (place : placeInRound n due = 3 * (c.val : ℕ) + 2 + 2) : due = true := by
  revert n due c; decide

/-- With no command given the place after n steps is n further, the store is the same and still no command is given. -/
structure State.RunsOn (s : State) (n : ℕ) (t : State) : Prop where
  place : t.placeInRound = s.placeInRound + n
  store : t.targetDuty = s.targetDuty
  unlisted : t.sched = []

theorem State.RunsOn.trans {s t u : State} {m n : ℕ} (first : s.RunsOn m t) (rest : t.RunsOn n u) :
    s.RunsOn (m + n) u where
  place := by rw [rest.place, first.place, Nat.cast_add, add_assoc]
  store := rest.store.trans first.store
  unlisted := rest.unlisted

/-- A tick, due or even, moves one place on. -/
theorem Safe.tick_runsOn {s t : State} (safe : Safe s) (unlisted : s.sched = []) (due : s.tickDue = oddTick s)
    (run : exec (decode (.selector (selector s))) { s with tickDue := false } = .next t) : s.RunsOn 1 t := by
  obtain ⟨same, -, -, sched, idle, -⟩ := ticksLeaveTheForegroundAlone _ _ t run
  obtain ⟨tick, -⟩ := (tick_cases run).moves_one_place (s := { s with tickDue := false }) safe.position
  refine ⟨?_, same.targetDuty, sched.trans unlisted⟩
  rw [State.placeInRound, State.placeInRound, tick, idle, due, oddTick_eq, Nat.cast_one]
  exact placeInRound_tick s.tick safe.position.2

/-- With no command given every step moves one place on. -/
theorem Safe.step_runsOn {s t : State} (safe : Safe s) (unlisted : s.sched = []) (h : step s = .next t) :
    s.RunsOn 1 t := by
  cases due : s.tickDue with
  | true =>
    rw [Machine.step_due due] at h
    exact safe.tick_runsOn unlisted (due.trans (safe.due due).symm) h
  | false =>
    cases odd : oddTick s with
    | true =>
      rw [step_odd_unlisted due safe.running unlisted odd] at h
      injection h with h
      subst h
      have even : s.tick.getLsbD 0 = false := by simpa [oddTick_eq] using odd
      refine ⟨?_, rfl, unlisted⟩
      rw [State.placeInRound, State.placeInRound, due, Nat.cast_one]
      exact placeInRound_latch s.tick even
    | false =>
      rw [step_even_unlisted due safe.running unlisted odd] at h
      refine safe.tick_runsOn unlisted (due.trans odd.symm) ?_
      rwa [← due]

/-- With no command given n steps move n places on, by induction on n. -/
theorem Safe.steps_runsOn {s : State} (safe : Safe s) (unlisted : s.sched = []) (n : ℕ) :
    ∃ t, (∀ m, steps (n + m) s = steps m t) ∧ Safe t ∧ s.RunsOn n t := by
  induction n generalizing s with
  | zero => exact ⟨s, fun m => by rw [Nat.zero_add], safe, by simp, rfl, unlisted⟩
  | succ n ih =>
    obtain ⟨u, h⟩ := safe.step_completes
    have first := safe.step_runsOn unlisted h
    obtain ⟨t, run, done, rest⟩ := ih (everyStepKeepsSafe s u safe h) first.unlisted
    refine ⟨t, fun m => ?_, done, Nat.add_comm 1 n ▸ first.trans rest⟩
    rw [Nat.succ_add, steps_succ_of_step h, run]

/-- With no command given every place of the round is reached within 14 steps. -/
theorem Safe.reaches_place {s : State} (safe : Safe s) (unlisted : s.sched = []) (p : ZMod 15) :
    ∃ n t, n ≤ 14 ∧ (∀ m, steps (n + m) s = steps m t) ∧ Safe t ∧ t.placeInRound = p ∧ s.RunsOn n t := by
  obtain ⟨t, run, done, on⟩ := safe.steps_runsOn unlisted (p - s.placeInRound).val
  refine ⟨_, t, Nat.le_of_lt_succ (ZMod.val_lt _), run, done, ?_, on⟩
  rw [on.place, ZMod.natCast_zmod_val, add_sub_cancel]

/-- Settles O49: at most 14 steps lead to the place of `T.ADVc`, and the two steps of O40 bring what it reads to the
pin. -/
theorem commandReachesThePin : Obligations.CommandReachesThePin := by
  intro s c safe unlisted
  obtain ⟨n, t, few, run, safeAt, place, on⟩ := safe.reaches_place unlisted (3 * (c.val : ℕ) + 2)
  have tick := tick_of_placeInRound_adv safeAt.position.2 place
  obtain ⟨u, v, adv, latch, -, -, steer, duty⟩ := shownDutyIsTheOneRead t c safeAt on.unlisted tick
  have programmed := safeAt.step_runsOn on.unlisted adv
  have safeNext := everyStepKeepsSafe t u safeAt adv
  have latched := programmed.trans (safeNext.step_runsOn programmed.unlisted latch)
  have safeEnd := everyStepKeepsSafe u v safeNext latch
  have due : v.tickDue = true := due_of_placeInRound_latched safeEnd.position.2 (place ▸ latched.place)
  have shown : steps 2 t = .next v := (steps_succ_of_step adv 1).trans (steps_succ_of_step latch 0)
  exact ⟨n + 2, v, by omega, by omega, (run 2).trans shown, due, steer, duty.trans (congrArg (·[c]) on.store),
    latched.store.trans on.store⟩

end Sys2Proof.Machine

/-! PROOFS, 43_pwm_collaborator.md: the carrier's waveform over one period (R114, general knowledge G2). -/

namespace Sys2Proof.Machine

theorem carrierHigh_iff (d : Duty) (count : Nat) : carrierHigh d count = true ↔ count < d.toNat :=
  decide_eq_true_iff

/-- Of a steered pin every observation sees the carrier. -/
theorem pinHigh_of_steered {s : State} {k : Pin} (on : s.steerAct.getLsbD k.val = true) (n count : Nat) :
    pinHigh n count k s = carrierHigh s.dutyAct count := by
  rw [pinHigh, pinLevel_of_steered on]

/-- The counts of a period of `p` counts at which the carrier is high are the first `d`, where `d` is at most `p`. -/
theorem filter_carrierHigh_range {d : Duty} {p : Nat} (fits : d.toNat ≤ p) :
    (List.range p).filter (carrierHigh d) = List.range d.toNat := by
  have cut := List.Ico.filter_lt_of_ge (n := 0) fits
  rwa [List.Ico.zero_bot, List.Ico.zero_bot] at cut

/-- Settles O37: a steered pin is the carrier, whose high counts are an initial segment of the period. -/
theorem carrierIsHighForTheDuty : Obligations.CarrierIsHighForTheDuty := by
  intro s k obs on fits
  simp only [pinHigh_of_steered on]
  constructor
  · rw [filter_carrierHigh_range fits, List.length_range]
  · intro n m high before
    rw [carrierHigh_iff] at high ⊢
    exact before.trans_lt high

end Sys2Proof.Machine

/-! PROOFS, 60_exceptions.md: the halted run (R147) and the timing violation (R133). -/

namespace Sys2Proof.Machine

/-! ### The halted run (R147) -/

/-- The carrier settles after one period: with nothing written between, a second `CARRIER_START` latches what the first
one did, and no pin loses steering. -/
theorem carrierStart_carrierStart (s : State) : carrierStart (carrierStart s) = carrierStart s := by
  have settled : (carrierStart s).stale ||| (s.steerShadow &&& ~~~s.steerShadow) = (carrierStart s).stale := by
    rw [BitVec.and_not_self]
    exact BitVec.or_zero
  exact congrArg (fun w => { carrierStart s with stale := w }) settled

/-- With nothing listed a halted run's step is a `CARRIER_START`. -/
theorem step_halted_unlisted {s : State} (halted : s.halted = true) (idle : s.tickDue = false)
    (unlisted : s.sched = []) : step s = .next (carrierStart s) :=
  step_of_move (by rw [takeTurn_idle idle, unlisted]; exact if_pos halted)

/-- No step of a halted run but a bare port word touches what the scheduler owns. -/
theorem step_halted_keeps_scheduler {s t : State} (halted : s.halted = true) (idle : s.tickDue = false)
    (noPort : ∀ op es, s.sched ≠ .port op :: es) (h : step s = .next t) :
    t.tick = s.tick ∧ t.phase = s.phase ∧ t.pend = s.pend ∧ t.steerShadow = s.steerShadow ∧
      t.dutyShadow = s.dutyShadow ∧ t.halted = true := by
  cases step_cases h with
  | due due run => simp [idle] at due
  | tick es idle live even rest run => simp [halted] at live
  | latch es idle live odd rest eq => simp [halted] at live
  | port op es idle event run => exact absurd event (noPort op es)
  | command b es idle event run =>
    have same : SameScheduler s t := (command_of_next run).frame.1.of_revalidated
    exact ⟨same.tick, same.phase, same.pend, same.steerShadow, same.dutyShadow, same.halted.trans halted⟩
  | carrier es idle event eq => subst eq; exact ⟨rfl, rfl, rfl, rfl, rfl, halted⟩
  | halt es idle event eq => subst eq; exact ⟨rfl, rfl, rfl, rfl, rfl, rfl⟩
  | silent es idle _ rest eq => subst eq; exact ⟨rfl, rfl, rfl, rfl, rfl, halted⟩

/-- Settles O51: a halted tick source delivers no tick, so commands, `CARRIER_START` and events that do nothing are all
that is left; and `CARRIER_START` is idempotent. -/
theorem haltedRunLeavesTheScheduler : Obligations.HaltedRunLeavesTheScheduler := by
  refine ⟨fun _ _ => step_halted_keeps_scheduler, fun s halted idle unlisted => ?_⟩
  have again : step (carrierStart s) = .next (carrierStart (carrierStart s)) :=
    step_halted_unlisted halted idle unlisted
  exact ⟨step_halted_unlisted halted idle unlisted, again.trans (by rw [carrierStart_carrierStart])⟩

/-! ### The timing violation (R133) -/

theorem step_of_stop {s : State} {f : Fault} (h : takeTurn s = .stop f) : step s = .fault f := by
  unfold step
  rw [h]

/-- Settles O52: the event's turn is to stop with that fault. -/
theorem timingViolationIsAFault : Obligations.TimingViolationIsAFault := fun _ _ idle event =>
  step_of_stop (by rw [takeTurn_idle idle, event])

end Sys2Proof.Machine
